-- ==== Sys2Proof/Word.lean ====
section
/-! DEFINITION. The widths of BURST and its four status flags (00_scope.md R6, R7; 10_state.md R20, R29). -/

namespace Sys2Proof

/-- A 32-bit word: data, addresses and registers (00_scope.md R6). -/
abbrev Word := BitVec 32

/-- A byte. -/
abbrev Byte := BitVec 8

/-- The number of a general register, R0 to R15 (00_scope.md R7, 10_state.md R20). -/
abbrev Reg := Fin 16

/-- The FLAGS register: exactly four bits (10_state.md R29, R30). -/
structure Flags where
  /-- ZERO, bit 0: "Result is zero". -/
  z : Bool
  /-- NEGATIVE, bit 1: "Result is negative". -/
  n : Bool
  /-- CARRY, bit 2: "Arithmetic carry/borrow". -/
  c : Bool
  /-- OVERFLOW, bit 3: "Arithmetic overflow". -/
  v : Bool
deriving DecidableEq, Repr, Inhabited

end Sys2Proof
end

