-- ==== Sys2Proof/Config.lean ====
section
/-! DEFINITION. What the spec leaves to an implementation: the values that `State.reset` takes for open parameters, each
named in the assumption log, and the free function behind CMPF. -/

namespace Sys2Proof

/-- `MEM_SIZE` of `State.reset`. 00_scope.md R8 leaves it open; DESIGN CHOICE, unsafe (log 4). -/
def Config.memSize : Nat := 0x10000

/-- `RESET_PC` of `State.reset`. 00_scope.md R10 leaves it open; DESIGN CHOICE, unsafe (log 3). -/
def Config.resetPc : Word := 0#32

/-- Every general register of `State.reset`. 10_state.md R38 gives no value; DESIGN CHOICE, unsafe (log 1). -/
def Config.resetReg : Word := 0#32

/-- The flags of `State.reset`. 10_state.md R39 gives no value; DESIGN CHOICE, unsafe (log 2). -/
def Config.resetFlags : Flags := { z := false, n := false, c := false, v := false }

/-- What a byte of memory that the memory's list does not name reads as. 70_reset_and_hazards.md R312 leaves the launch
image open; DESIGN CHOICE, unsafe (log 5). -/
def Config.unlistedByte : Byte := 0#8

/-- `CMPF_FN`, the open parameter of 00_scope.md R11 and 49_comparison.md R264: a total function from two words to the
four flags. It has no body, so a claim holds for every such function; DESIGN CHOICE, safe (log 11). -/
opaque Config.cmpfFn : Word → Word → Flags

end Sys2Proof
end

