-- ==== Sys2Proof/Machine/State.lean ====
section
/-! DEFINITION. The architectural state of BURST (10_state.md, 20_memory.md), the model's bookkeeping of the hand-over
to the environment (60_exceptions.md R281), the reasons a step can stop, and the reset state (10_state.md R41). -/

namespace Sys2Proof.Machine

/-- Memory as (address, byte) pairs in one canonical form (`Memory.wf` in Machine/Memory.lean): addresses strictly
rising, no entry equal to what an unlisted address reads as. -/
abbrev Memory := List Host.Cell

/-- What one of the five event instructions hands to the environment (60_exceptions.md R280, R281). -/
inductive Event where
  /-- SYSCALL: the call number, `x[0]`, and the five arguments, `x[1]` to `x[5]` (41_system.md R151). -/
  | sysCall (number arg1 arg2 arg3 arg4 arg5 : Word)
  /-- TRAP: its number (41_system.md R152). -/
  | trap (n : Word)
  /-- INT: its number (41_system.md R153). -/
  | softInt (n : Word)
  /-- IRET and RETI (41_system.md R154, 48_control_flow.md R250). -/
  | intReturn
deriving DecidableEq, Repr, Inhabited

/-- Who acts next. The model's own field (log 7): between an event's delivery and the environment's answer the machine
waits; after the environment has ended the run nobody acts (60_exceptions.md R281, R286). -/
inductive Control where
  /-- The machine takes the next step. -/
  | machine
  /-- The environment answers this event. -/
  | environment (e : Event)
  /-- The environment has ended the run, with an exit code where it gave one (60_exceptions.md R286, R287). -/
  | ended (exitCode : Option Word)
deriving DecidableEq, Repr, Inhabited

/-- The state of the machine. -/
structure State where
  /-- R0 to R15 (10_state.md R20). -/
  regs : Vector Word 16
  /-- PC, the address of the instruction's first byte (10_state.md R24). -/
  pc : Word
  /-- SP, no general register (10_state.md R27). -/
  sp : Word
  /-- FLAGS (10_state.md R29, R30). -/
  flags : Flags
  /-- The run-state bit (10_state.md R32). -/
  halted : Bool
  /-- Memory (20_memory.md R50, R63). -/
  mem : Memory
  /-- `MEM_SIZE`, an open parameter that no step changes (00_scope.md R8; log 4). -/
  memSize : Nat
  /-- The hand-over between machine and environment, the model's own field (60_exceptions.md R281; log 7). -/
  control : Control
  /-- How many events the environment has answered, the model's own field: it makes every answer a fresh free value
  (log 8). -/
  envCount : Nat
deriving DecidableEq, Repr, Inhabited

/-- Whether a data access reads or writes (60_exceptions.md R274). -/
inductive AccessKind where
  | read | write
deriving DecidableEq, Repr, Inhabited

/-- The five faults (60_exceptions.md R277). A fault ends the run in a failed state and changes nothing (R271). All are
SAFE: the spec gives each of them, and a claim about a run that faults is not provable. -/
inductive Fault where
  /-- Raised at decode by a nonzero FLAGS field, a reserved opcode or a nonzero PAD bit; records `pc`, the header and,
  when a PAD bit is the cause, the operand bytes (60_exceptions.md R272). Safe. -/
  | illegalInstruction (pc : Word) (header : BitVec 16) (operands : List Byte)
  /-- Raised by the fetch of an instruction byte outside memory; records its address (60_exceptions.md R273). Safe. -/
  | fetchFault (addr : Word)
  /-- Raised by a data access not wholly inside memory; records address, size and kind (60_exceptions.md R274). Safe. -/
  | memoryFault (addr : Word) (size : Nat) (kind : AccessKind)
  /-- Raised by a misaligned halfword or word data access; records the address (60_exceptions.md R275). Safe. -/
  | alignmentFault (addr : Word)
  /-- Raised by DIV, MOD, DIVU and MODU when there is no quotient; records `pc` (60_exceptions.md R276). Safe. -/
  | divideError (pc : Word)
deriving DecidableEq, Repr

/-- Why the model gives no next state. -/
inductive Refusal where
  /-- Raised by `exec` for an instruction without a meaning; no instruction is left in that case. Safe. -/
  | notModelled (mnemonic : String)
  /-- Raised by the environment's answer to a system call whose number, or whose allocator, this environment does not
  define; the spec says a model refuses such a call (60_exceptions.md R285). Safe (log 9). -/
  | callNotDefined (number : Word)
  /-- Raised by the environment's answer to a system call whose buffer is not wholly inside memory; the spec says a
  model refuses the call (60_exceptions.md R285). Safe (log 9). -/
  | bufferOutsideMemory (number : Word)
deriving DecidableEq, Repr

/-- The reset state of a launch (70_reset_and_hazards.md R310): everything the spec leaves to the launch is an
argument, the rest is as R36 and R40 of 10_state.md say. -/
def State.launch (memSize : Nat) (resetPc : Word) (regs : Vector Word 16) (flags : Flags) (image : Memory) : State :=
  { regs := regs
    pc := resetPc
    sp := BitVec.ofNat 32 memSize
    flags := flags
    halted := false
    mem := image
    memSize := memSize
    control := .machine
    envCount := 0 }

/-- The machine right after reset: one launch, with the values that logs 1 to 5 name for what the spec leaves open. -/
def State.reset : State :=
  State.launch Config.memSize Config.resetPc (Vector.replicate 16 Config.resetReg) Config.resetFlags []

/-! ## Plain accessors and one-field updates -/

/-- Reads a general register; none is hardwired (10_state.md R21). -/
def State.reg (s : State) (r : Reg) : Word := s.regs[r.val]

/-- Writes a general register (10_state.md R21). -/
def State.setReg (s : State) (r : Reg) (v : Word) : State := { s with regs := s.regs.set r.val v r.isLt }

/-- Writes all sixteen general registers. -/
def State.setRegs (s : State) (v : Vector Word 16) : State := { s with regs := v }

/-- Writes PC. -/
def State.setPc (s : State) (v : Word) : State := { s with pc := v }

/-- Writes SP. -/
def State.setSp (s : State) (v : Word) : State := { s with sp := v }

/-- Writes all four flags at once (10_state.md R31). -/
def State.setFlags (s : State) (v : Flags) : State := { s with flags := v }

/-- Writes the run-state bit. -/
def State.setHalted (s : State) (v : Bool) : State := { s with halted := v }

/-- Replaces memory. -/
def State.setMem (s : State) (v : Memory) : State := { s with mem := v }

/-- Hands control over. -/
def State.setControl (s : State) (v : Control) : State := { s with control := v }

/-- Counts one answer of the environment. -/
def State.countAnswer (s : State) : State := { s with envCount := s.envCount + 1 }

end Sys2Proof.Machine
end

