-- ==== Sys2Proof/Syntax.lean ====
section
/-! DEFINITION. The syntax of BURST: conditions, operand layouts and one constructor of `Instr` per row of the opcode
map (30_encoding.md R110). Every operand has exactly the width its field has, so every term of `Instr` is an
instruction that some bytes encode (R112). -/

namespace Sys2Proof

/-- The eight conditions of 30_encoding.md R81. -/
inductive Cond where
  | always | ne | ge | gt | never | eq | lt | le
deriving DecidableEq, Repr, Inhabited

/-- The three-bit code of a condition: the value of header bits 15-13 (30_encoding.md R81, 90_conflicts.md C6). -/
def Cond.code : Cond → BitVec 3
  | .always => 0#3
  | .ne => 1#3
  | .ge => 2#3
  | .gt => 3#3
  | .never => 4#3
  | .eq => 5#3
  | .lt => 6#3
  | .le => 7#3

/-- The thirteen operand layouts (30_encoding.md R84 to R97). -/
inductive Layout where
  | n | rrr | rr | ri8 | ri16 | m | j | r | i8 | rri8 | rri5 | i16 | ri32
deriving DecidableEq, Repr, Inhabited

/-- How many operand bytes follow the two header bytes (30_encoding.md R84). -/
def Layout.operandBytes : Layout → Nat
  | .n => 0
  | .rrr => 2
  | .rr => 2
  | .ri8 => 2
  | .ri16 => 4
  | .m => 2
  | .j => 3
  | .r => 2
  | .i8 => 2
  | .rri8 => 2
  | .rri5 => 2
  | .i16 => 4
  | .ri32 => 6

/-- The length in bytes of an instruction of this layout (30_encoding.md R84). -/
def Layout.len (l : Layout) : Nat := 2 + l.operandBytes

/-- The instructions of BURST, in the order of the opcode map (30_encoding.md R110). The first argument of every
constructor is the condition that its header carries (R81); the others are the operands of its layout. -/
inductive Instr where
  /-- R150 HALT (opcode 0x00, layout N). -/
  | halt (cond : Cond)
  /-- R151 SYSCALL (opcode 0x01, layout N). -/
  | syscall (cond : Cond)
  /-- R152 TRAP imm8 (opcode 0x02, layout I8). -/
  | trap (cond : Cond) (imm : BitVec 8)
  /-- R153 INT imm8 (opcode 0x03, layout I8). -/
  | int (cond : Cond) (imm : BitVec 8)
  /-- R154 IRET (opcode 0x04, layout N). -/
  | iret (cond : Cond)
  /-- R160 MOV dest, src (opcode 0x10, layout RR). -/
  | mov (cond : Cond) (reg1 reg2 : Reg)
  /-- R161 MOVI reg, imm16 (opcode 0x11, layout RI16). -/
  | movi (cond : Cond) (reg : Reg) (imm : BitVec 16)
  /-- R162 LIMM reg, imm32 (opcode 0x12, layout RI32). -/
  | limm (cond : Cond) (reg : Reg) (imm : BitVec 32)
  /-- R163 MOVHI reg, imm16 (opcode 0x13, layout RI16). -/
  | movhi (cond : Cond) (reg : Reg) (imm : BitVec 16)
  /-- R164 SWAP reg1, reg2 (opcode 0x14, layout RR). -/
  | swap (cond : Cond) (reg1 reg2 : Reg)
  /-- R165 LEA reg, [addr] (opcode 0x15, layout M). -/
  | lea (cond : Cond) (reg base : Reg) (off : BitVec 8)
  /-- R171 ADD dest, src1, src2 (opcode 0x20, layout RRR). -/
  | add (cond : Cond) (dest src1 src2 : Reg)
  /-- R172 SUB dest, src1, src2 (opcode 0x21, layout RRR). -/
  | sub (cond : Cond) (dest src1 src2 : Reg)
  /-- R174 MUL dest, src1, src2 (opcode 0x22, layout RRR). -/
  | mul (cond : Cond) (dest src1 src2 : Reg)
  /-- R175 DIV dest, src1, src2 (opcode 0x23, layout RRR). -/
  | div (cond : Cond) (dest src1 src2 : Reg)
  /-- R176 MOD dest, src1, src2 (opcode 0x24, layout RRR). -/
  | mod (cond : Cond) (dest src1 src2 : Reg)
  /-- R177 DIVU dest, src1, src2 (opcode 0x25, layout RRR). -/
  | divu (cond : Cond) (dest src1 src2 : Reg)
  /-- R178 MODU dest, src1, src2 (opcode 0x26, layout RRR). -/
  | modu (cond : Cond) (dest src1 src2 : Reg)
  /-- R179 INC reg (opcode 0x27, layout R). -/
  | inc (cond : Cond) (reg : Reg)
  /-- R180 DEC reg (opcode 0x28, layout R). -/
  | dec (cond : Cond) (reg : Reg)
  /-- R181 NEG reg (opcode 0x29, layout R). -/
  | neg (cond : Cond) (reg : Reg)
  /-- R182 ABS reg (opcode 0x2A, layout R). -/
  | abs (cond : Cond) (reg : Reg)
  /-- R183 ADDI dest, src, imm8 (opcode 0x2B, layout RRI8). -/
  | addi (cond : Cond) (dest src : Reg) (imm : BitVec 8)
  /-- R184 SUBI dest, src, imm8 (opcode 0x2C, layout RRI8). -/
  | subi (cond : Cond) (dest src : Reg) (imm : BitVec 8)
  /-- R191 AND dest, src1, src2 (opcode 0x30, layout RRR). -/
  | and (cond : Cond) (dest src1 src2 : Reg)
  /-- R192 OR dest, src1, src2 (opcode 0x31, layout RRR). -/
  | or (cond : Cond) (dest src1 src2 : Reg)
  /-- R193 XOR dest, src1, src2 (opcode 0x32, layout RRR). -/
  | xor (cond : Cond) (dest src1 src2 : Reg)
  /-- R194 NOT reg (opcode 0x33, layout R). -/
  | not (cond : Cond) (reg : Reg)
  /-- R195 ANDI dest, src, imm8 (opcode 0x34, layout RRI8). -/
  | andi (cond : Cond) (dest src : Reg) (imm : BitVec 8)
  /-- R196 ORI dest, src, imm8 (opcode 0x35, layout RRI8). -/
  | ori (cond : Cond) (dest src : Reg) (imm : BitVec 8)
  /-- R197 XORI dest, src, imm8 (opcode 0x36, layout RRI8). -/
  | xori (cond : Cond) (dest src : Reg) (imm : BitVec 8)
  /-- R201 SHL dest, src, count (opcode 0x40, layout RRR). -/
  | shl (cond : Cond) (dest src1 src2 : Reg)
  /-- R202 SHR dest, src, count (opcode 0x41, layout RRR). -/
  | shr (cond : Cond) (dest src1 src2 : Reg)
  /-- R203 SAR dest, src, count (opcode 0x42, layout RRR). -/
  | sar (cond : Cond) (dest src1 src2 : Reg)
  /-- R204 ROL dest, src, count (opcode 0x43, layout RRR). -/
  | rol (cond : Cond) (dest src1 src2 : Reg)
  /-- R205 ROR dest, src, count (opcode 0x44, layout RRR). -/
  | ror (cond : Cond) (dest src1 src2 : Reg)
  /-- R206 SHLI dest, src, imm5 (opcode 0x45, layout RRI5). -/
  | shli (cond : Cond) (dest src : Reg) (imm : BitVec 5)
  /-- R207 SHRI dest, src, imm5 (opcode 0x46, layout RRI5). -/
  | shri (cond : Cond) (dest src : Reg) (imm : BitVec 5)
  /-- R208 SARI dest, src, imm5 (opcode 0x47, layout RRI5). -/
  | sari (cond : Cond) (dest src : Reg) (imm : BitVec 5)
  /-- R216 LOAD dest, [reg+off] (opcode 0x50, layout M). -/
  | load (cond : Cond) (reg base : Reg) (off : BitVec 8)
  /-- R217 STORE src, [reg+off] (opcode 0x51, layout M). -/
  | store (cond : Cond) (reg base : Reg) (off : BitVec 8)
  /-- R218 LOADB dest, [reg+off] (opcode 0x52, layout M). -/
  | loadb (cond : Cond) (reg base : Reg) (off : BitVec 8)
  /-- R219 STOREB src, [reg+off] (opcode 0x53, layout M). -/
  | storeb (cond : Cond) (reg base : Reg) (off : BitVec 8)
  /-- R220 LOADH dest, [reg+off] (opcode 0x54, layout M). -/
  | loadh (cond : Cond) (reg base : Reg) (off : BitVec 8)
  /-- R221 STOREH src, [reg+off] (opcode 0x55, layout M). -/
  | storeh (cond : Cond) (reg base : Reg) (off : BitVec 8)
  /-- R222 LOADSB dest, [reg+off] (opcode 0x56, layout M). -/
  | loadsb (cond : Cond) (reg base : Reg) (off : BitVec 8)
  /-- R223 LOADSH dest, [reg+off] (opcode 0x57, layout M). -/
  | loadsh (cond : Cond) (reg base : Reg) (off : BitVec 8)
  /-- R230 PUSH reg (opcode 0x60, layout R). -/
  | push (cond : Cond) (reg : Reg)
  /-- R231 POP reg (opcode 0x61, layout R). -/
  | pop (cond : Cond) (reg : Reg)
  /-- R232 PUSHM reg_mask (opcode 0x62, layout I16). -/
  | pushm (cond : Cond) (imm : BitVec 16)
  /-- R233 POPM reg_mask (opcode 0x63, layout I16). -/
  | popm (cond : Cond) (imm : BitVec 16)
  /-- R234 ENTER imm16 (opcode 0x64, layout I16). -/
  | enter (cond : Cond) (imm : BitVec 16)
  /-- R235 LEAVE (opcode 0x65, layout N). -/
  | leave (cond : Cond)
  /-- R236 ALLOCA reg (opcode 0x66, layout R). -/
  | alloca (cond : Cond) (reg : Reg)
  /-- R245 JMP addr24 (opcode 0x70, layout J). -/
  | jmp (cond : Cond) (addr : BitVec 24)
  /-- R246 JMPR reg (opcode 0x71, layout R). -/
  | jmpr (cond : Cond) (reg : Reg)
  /-- R247 CALL addr24 (opcode 0x72, layout J). -/
  | call (cond : Cond) (addr : BitVec 24)
  /-- R248 CALLI reg (opcode 0x73, layout R). -/
  | calli (cond : Cond) (reg : Reg)
  /-- R249 RET (opcode 0x74, layout N). -/
  | ret (cond : Cond)
  /-- R250 RETI (opcode 0x75, layout N). -/
  | reti (cond : Cond)
  /-- R251 BRA rel8 (opcode 0x76, layout I8). -/
  | bra (cond : Cond) (imm : BitVec 8)
  /-- R252 BSR rel8 (opcode 0x77, layout I8). -/
  | bsr (cond : Cond) (imm : BitVec 8)
  /-- R260 CMP reg1, reg2 (opcode 0x80, layout RR). -/
  | cmp (cond : Cond) (reg1 reg2 : Reg)
  /-- R261 CMPI reg, imm8 (opcode 0x81, layout RI8). -/
  | cmpi (cond : Cond) (reg : Reg) (imm : BitVec 8)
  /-- R262 TST reg1, reg2 (opcode 0x82, layout RR). -/
  | tst (cond : Cond) (reg1 reg2 : Reg)
  /-- R263 TSTI reg, imm8 (opcode 0x83, layout RI8). -/
  | tsti (cond : Cond) (reg : Reg) (imm : BitVec 8)
  /-- R264 CMPF reg1, reg2 (opcode 0x84, layout RR). -/
  | cmpf (cond : Cond) (reg1 reg2 : Reg)
deriving DecidableEq, Repr, Inhabited

/-- The condition of an instruction (30_encoding.md R81). -/
def Instr.cond : Instr → Cond
  | .halt c => c
  | .syscall c => c
  | .trap c _ => c
  | .int c _ => c
  | .iret c => c
  | .mov c _ _ => c
  | .movi c _ _ => c
  | .limm c _ _ => c
  | .movhi c _ _ => c
  | .swap c _ _ => c
  | .lea c _ _ _ => c
  | .add c _ _ _ => c
  | .sub c _ _ _ => c
  | .mul c _ _ _ => c
  | .div c _ _ _ => c
  | .mod c _ _ _ => c
  | .divu c _ _ _ => c
  | .modu c _ _ _ => c
  | .inc c _ => c
  | .dec c _ => c
  | .neg c _ => c
  | .abs c _ => c
  | .addi c _ _ _ => c
  | .subi c _ _ _ => c
  | .and c _ _ _ => c
  | .or c _ _ _ => c
  | .xor c _ _ _ => c
  | .not c _ => c
  | .andi c _ _ _ => c
  | .ori c _ _ _ => c
  | .xori c _ _ _ => c
  | .shl c _ _ _ => c
  | .shr c _ _ _ => c
  | .sar c _ _ _ => c
  | .rol c _ _ _ => c
  | .ror c _ _ _ => c
  | .shli c _ _ _ => c
  | .shri c _ _ _ => c
  | .sari c _ _ _ => c
  | .load c _ _ _ => c
  | .store c _ _ _ => c
  | .loadb c _ _ _ => c
  | .storeb c _ _ _ => c
  | .loadh c _ _ _ => c
  | .storeh c _ _ _ => c
  | .loadsb c _ _ _ => c
  | .loadsh c _ _ _ => c
  | .push c _ => c
  | .pop c _ => c
  | .pushm c _ => c
  | .popm c _ => c
  | .enter c _ => c
  | .leave c => c
  | .alloca c _ => c
  | .jmp c _ => c
  | .jmpr c _ => c
  | .call c _ => c
  | .calli c _ => c
  | .ret c => c
  | .reti c => c
  | .bra c _ => c
  | .bsr c _ => c
  | .cmp c _ _ => c
  | .cmpi c _ _ => c
  | .tst c _ _ => c
  | .tsti c _ _ => c
  | .cmpf c _ _ => c

/-- The operand layout of an instruction: the Fmt column of 30_encoding.md R110. -/
def Instr.layout : Instr → Layout
  | .halt _ => .n
  | .syscall _ => .n
  | .trap _ _ => .i8
  | .int _ _ => .i8
  | .iret _ => .n
  | .mov _ _ _ => .rr
  | .movi _ _ _ => .ri16
  | .limm _ _ _ => .ri32
  | .movhi _ _ _ => .ri16
  | .swap _ _ _ => .rr
  | .lea _ _ _ _ => .m
  | .add _ _ _ _ => .rrr
  | .sub _ _ _ _ => .rrr
  | .mul _ _ _ _ => .rrr
  | .div _ _ _ _ => .rrr
  | .mod _ _ _ _ => .rrr
  | .divu _ _ _ _ => .rrr
  | .modu _ _ _ _ => .rrr
  | .inc _ _ => .r
  | .dec _ _ => .r
  | .neg _ _ => .r
  | .abs _ _ => .r
  | .addi _ _ _ _ => .rri8
  | .subi _ _ _ _ => .rri8
  | .and _ _ _ _ => .rrr
  | .or _ _ _ _ => .rrr
  | .xor _ _ _ _ => .rrr
  | .not _ _ => .r
  | .andi _ _ _ _ => .rri8
  | .ori _ _ _ _ => .rri8
  | .xori _ _ _ _ => .rri8
  | .shl _ _ _ _ => .rrr
  | .shr _ _ _ _ => .rrr
  | .sar _ _ _ _ => .rrr
  | .rol _ _ _ _ => .rrr
  | .ror _ _ _ _ => .rrr
  | .shli _ _ _ _ => .rri5
  | .shri _ _ _ _ => .rri5
  | .sari _ _ _ _ => .rri5
  | .load _ _ _ _ => .m
  | .store _ _ _ _ => .m
  | .loadb _ _ _ _ => .m
  | .storeb _ _ _ _ => .m
  | .loadh _ _ _ _ => .m
  | .storeh _ _ _ _ => .m
  | .loadsb _ _ _ _ => .m
  | .loadsh _ _ _ _ => .m
  | .push _ _ => .r
  | .pop _ _ => .r
  | .pushm _ _ => .i16
  | .popm _ _ => .i16
  | .enter _ _ => .i16
  | .leave _ => .n
  | .alloca _ _ => .r
  | .jmp _ _ => .j
  | .jmpr _ _ => .r
  | .call _ _ => .j
  | .calli _ _ => .r
  | .ret _ => .n
  | .reti _ => .n
  | .bra _ _ => .i8
  | .bsr _ _ => .i8
  | .cmp _ _ _ => .rr
  | .cmpi _ _ _ => .ri8
  | .tst _ _ _ => .rr
  | .tsti _ _ _ => .ri8
  | .cmpf _ _ _ => .rr

/-- The length of an instruction in bytes (30_encoding.md R84). -/
def Instr.len (i : Instr) : Nat := i.layout.len

end Sys2Proof
end

