-- ==== Sys2Proof/Machine/Flags.lean ====
section
/-! DEFINITION. The flag helpers of 40_execution_cycle.md R139 to R141, the flags of ABS, and the condition test R135. -/

namespace Sys2Proof.Machine

/-- A 32-bit result with the four flags it leaves. -/
structure Alu where
  value : Word
  flags : Flags
deriving DecidableEq, Repr, Inhabited

/-- `SetZN(r)` with the C and V an instruction gives (40_execution_cycle.md R139). -/
def flagsOf (r : Word) (c v : Bool) : Flags := { z := r == 0#32, n := r.msb, c := c, v := v }

/-- `AddFlags(a, b)` (40_execution_cycle.md R140): C is the carry out of bit 31. -/
def addFlags (a b : Word) : Alu :=
  { value := a + b
    flags := flagsOf (a + b) (decide (2 ^ 32 ≤ a.toNat + b.toNat)) (a.msb == b.msb && (a + b).msb != a.msb) }

/-- `SubFlags(a, b)` (40_execution_cycle.md R140): C is the borrow. -/
def subFlags (a b : Word) : Alu :=
  { value := a - b
    flags := flagsOf (a - b) (decide (a.toNat < b.toNat)) (a.msb != b.msb && (a - b).msb != a.msb) }

/-- `LogicFlags(r)` (40_execution_cycle.md R141): C and V are cleared. -/
def logicFlags (r : Word) : Alu := { value := r, flags := flagsOf r false false }

/-- ABS's value and flags (43_arithmetic.md R182): V only for the one value whose absolute value does not fit. -/
def absFlags (a : Word) : Alu :=
  let r := if a.msb then 0#32 - a else a
  { value := r, flags := flagsOf r false (a == 0x80000000#32) }

/-- The condition test (40_execution_cycle.md R135): its formula over the three code bits, Invert, Signed and ZTest from
the left (30_encoding.md R81). -/
def condHolds (c : Cond) (f : Flags) : Bool :=
  let inv := c.code.getLsbD 2
  let sgn := c.code.getLsbD 1
  let zt := c.code.getLsbD 0
  let zpart := !zt || !f.z
  let spart := !sgn || f.n == f.v
  (zpart && spart) ^^ inv

end Sys2Proof.Machine
end

