-- ==== Sys2Proof/Machine/Memory.lean ====
section
/-! DEFINITION. Memory as plain storage (20_memory.md R63): one byte at an address, the canonical form of the list that
holds it, and the big-endian grouping of bytes into halfwords and words (R53). -/

namespace Sys2Proof.Machine

/-- The byte at an address (20_memory.md R63): the listed one, else what an unlisted address reads as. -/
def Memory.read : Memory → Nat → Byte
  | [], _ => Config.unlistedByte
  | (x, y) :: rest, a => if x = a then y else Memory.read rest a

/-- Takes every entry of an address out. -/
def Memory.erase (m : Memory) (a : Nat) : Memory := m.filter (fun c => c.1 != a)

/-- Puts an entry before the first one with a larger address. -/
def Memory.insert (a : Nat) (b : Byte) : Memory → Memory
  | [] => [(a, b)]
  | (x, y) :: rest => if a < x then (a, b) :: (x, y) :: rest else (x, y) :: Memory.insert a b rest

/-- Stores one byte, keeping the canonical form: writing what an unlisted address reads as removes the entry. -/
def Memory.write (m : Memory) (a : Nat) (b : Byte) : Memory :=
  if b = Config.unlistedByte then m.erase a else Memory.insert a b (m.erase a)

/-- Stores bytes at rising addresses. -/
def Memory.writeBytes : Memory → Nat → List Byte → Memory
  | m, _, [] => m
  | m, a, b :: bs => Memory.writeBytes (m.write a b) (a + 1) bs

/-- The canonical form: addresses strictly rising, no entry equal to what an unlisted address reads as. -/
def Memory.wf : Memory → Bool
  | [] => true
  | (x, y) :: rest => y != Config.unlistedByte && rest.all (fun c => decide (x < c.1)) && Memory.wf rest

/-- Every entry lies below a bound. -/
def Memory.below (m : Memory) (bound : Nat) : Bool := m.all (fun c => decide (c.1 < bound))

/-- The sizes of a data access (20_memory.md R60). -/
inductive Width where
  | byte | half | word
deriving DecidableEq, Repr, Inhabited

/-- The size in bytes (20_memory.md R57). -/
def Width.bytes : Width → Nat
  | .byte => 1
  | .half => 2
  | .word => 4

/-- The low bytes of a word that a store of this width puts in memory, the one for the lowest address first
(20_memory.md R53, R58). -/
def Width.split : Width → Word → List Byte
  | .byte, v => [v.extractLsb' 0 8]
  | .half, v => [v.extractLsb' 8 8, v.extractLsb' 0 8]
  | .word, v => [v.extractLsb' 24 8, v.extractLsb' 16 8, v.extractLsb' 8 8, v.extractLsb' 0 8]

/-- The unsigned value of this width at an address, the byte at the lowest address most significant
(20_memory.md R53, R57). -/
def Memory.readWidth (m : Memory) (a : Nat) : Width → Word
  | .byte => (m.read a).setWidth 32
  | .half => (m.read a ++ m.read (a + 1)).setWidth 32
  | .word => m.read a ++ m.read (a + 1) ++ m.read (a + 2) ++ m.read (a + 3)

end Sys2Proof.Machine
end

