-- ==== Sys2Proof/Machine/Operands.lean ====
section
/-! DEFINITION. How each operand is assembled from its field (30_encoding.md R99) and the operand forms that name
memory, a target, a count or a set of registers. -/

namespace Sys2Proof.Machine

/-- imm8 of ADDI, SUBI, ANDI, ORI, XORI, CMPI, TSTI, TRAP and INT: zero-extended (30_encoding.md R99). -/
def immZero8 (v : BitVec 8) : Word := v.zeroExtend 32

/-- imm16 of ENTER: zero-extended, in bytes (30_encoding.md R99). -/
def immZero16 (v : BitVec 16) : Word := v.zeroExtend 32

/-- imm16 of MOVI: sign-extended (30_encoding.md R99). -/
def immSign16 (v : BitVec 16) : Word := v.signExtend 32

/-- MOVHI's result: the immediate above the low half the register keeps (42_data_movement.md R163). -/
def highHalf (v : BitVec 16) (old : Word) : Word := v ++ old.extractLsb' 0 16

/-- The effective address `[BASE+OFFSET]`: the offset is a signed byte count, the sum wraps (46_memory_ops.md R215,
20_memory.md R72). -/
def effectiveAddress (s : State) (base : Reg) (off : BitVec 8) : Word := s.reg base + off.signExtend 32

/-- addr24 of JMP and CALL: zero-extended, absolute (30_encoding.md R99). -/
def target24 (v : BitVec 24) : Word := v.zeroExtend 32

/-- rel8 of BRA and BSR: a signed byte count from the next instruction, wrapping (48_control_flow.md R251). -/
def targetRel8 (npc : Word) (v : BitVec 8) : Word := npc + v.signExtend 32

/-- The count of a register shift or rotation: the low five bits of the count register (45_shift.md R200). -/
def shiftCount (v : Word) : Nat := (v.extractLsb' 0 5).toNat

/-- The registers a mask selects, from R15 down to R0 (47_stack.md R232). -/
def maskDown (m : BitVec 16) : List Reg :=
  [15, 14, 13, 12, 11, 10, 9, 8, 7, 6, 5, 4, 3, 2, 1, 0].filter (fun r : Reg => m.getLsbD r.val)

/-- The registers a mask selects, from R0 up to R15 (47_stack.md R233). -/
def maskUp (m : BitVec 16) : List Reg :=
  [0, 1, 2, 3, 4, 5, 6, 7, 8, 9, 10, 11, 12, 13, 14, 15].filter (fun r : Reg => m.getLsbD r.val)

end Sys2Proof.Machine
end

