-- ==== Sys2Proof/Machine/Ops.lean ====
section
/-! DEFINITION. The operations the meanings share: the access primitives of 20_memory.md R57 to R62, the delivery of an
event (60_exceptions.md R281), and the frame of every instruction, condition test, skip and body
(40_execution_cycle.md R135 to R137). A body answers a state or the fault it raises; a raised fault drops the state, so
it cancels every write of the body (00_scope.md R18, 60_exceptions.md R279). -/

namespace Sys2Proof.Machine

/-! ## Memory access -/

/-- The fault of a data access, if any: alignment first, then range (20_memory.md R56 to R58). -/
def State.accessFault (s : State) (addr : Word) (w : Width) (kind : AccessKind) : Option Fault :=
  if addr.toNat % w.bytes ≠ 0 then some (.alignmentFault addr)
  else if s.memSize < addr.toNat + w.bytes then some (.memoryFault addr w.bytes kind)
  else none

/-- `MemRead(addr, n)`: the unsigned value (20_memory.md R57). -/
def State.memRead (s : State) (addr : Word) (w : Width) : Except Fault Word :=
  match s.accessFault addr w .read with
  | some f => .error f
  | none => .ok (s.mem.readWidth addr.toNat w)

/-- `MemWrite(addr, n, v)` (20_memory.md R58). -/
def State.memWrite (s : State) (addr : Word) (w : Width) (v : Word) : Except Fault State :=
  match s.accessFault addr w .write with
  | some f => .error f
  | none => .ok (s.setMem (s.mem.writeBytes addr.toNat (w.split v)))

/-! ## Stack -/

/-- `Push(v)`: the write at `SP - 4` comes before SP changes (20_memory.md R61). -/
def State.push (s : State) (v : Word) : Except Fault State :=
  match s.memWrite (s.sp - 4#32) .word v with
  | .error f => .error f
  | .ok t => .ok (t.setSp (s.sp - 4#32))

/-- `Pop()`: the popped word and the state with SP raised (20_memory.md R62). -/
def State.pop (s : State) : Except Fault (Word × State) :=
  match s.memRead s.sp .word with
  | .error f => .error f
  | .ok v => .ok (v, s.setSp (s.sp + 4#32))

/-- Pushes registers one after the other; the first push that faults is the fault (47_stack.md R232). -/
def State.pushAll : State → List Reg → Except Fault State
  | s, [] => .ok s
  | s, r :: rest =>
    match s.push (s.reg r) with
    | .error f => .error f
    | .ok t => t.pushAll rest

/-- Pops into registers one after the other; the first pop that faults is the fault (47_stack.md R233). -/
def State.popAll : State → List Reg → Except Fault State
  | s, [] => .ok s
  | s, r :: rest =>
    match s.pop with
    | .error f => .error f
    | .ok (v, t) => (t.setReg r v).popAll rest

/-! ## Results -/

/-- Writes a result and its flags, then advances (43_arithmetic.md R170, 44_logical.md R190, 45_shift.md R200). -/
def State.writeResult (s : State) (d : Reg) (x : Alu) (npc : Word) : State :=
  ((s.setReg d x.value).setFlags x.flags).setPc npc

/-- Writes a register only, then advances (42_data_movement.md, 46_memory_ops.md: no flag is written). -/
def State.writeReg (s : State) (d : Reg) (v : Word) (npc : Word) : State := (s.setReg d v).setPc npc

/-- Writes the flags only, then advances (49_comparison.md). -/
def State.writeFlags (s : State) (f : Flags) (npc : Word) : State := (s.setFlags f).setPc npc

/-! ## Delivering an event

Nothing vectors inside the machine (60_exceptions.md R270): a fault stops the run, and an event completes its
instruction and hands over to the environment. The way back from an event is `State.resume`. -/

/-- `deliver E(info)`: the instruction completes, `pc <- npc`, and the environment receives the event; the machine
changes nothing else (60_exceptions.md R281). -/
def State.deliver (s : State) (e : Event) (npc : Word) : State := (s.setPc npc).setControl (.environment e)

/-- The machine gets control back after the environment's answer, which is counted (60_exceptions.md R281, R293). -/
def State.resume (s : State) : State := s.countAnswer.setControl .machine

/-- The environment ends the run (60_exceptions.md R286, R287; 70_reset_and_hazards.md R316). -/
def State.endRun (s : State) (exitCode : Option Word) : State := s.countAnswer.setControl (.ended exitCode)

/-! ## One instruction -/

/-- An instruction of a layout under its condition (40_execution_cycle.md R135 to R137): a false condition skips,
changing `pc` alone; a true one runs the body, which is given `npc` (R131). -/
def execute (c : Cond) (l : Layout) (s : State) (body : Word → Except Fault State) :
    Host.Outcome State Fault Refusal :=
  let npc := s.pc + BitVec.ofNat 32 l.len
  if condHolds c s.flags then
    match body npc with
    | .ok t => .next t
    | .error f => .fault f
  else .next (s.setPc npc)

end Sys2Proof.Machine
end

