-- ==== Sys2Proof/Machine/Arithmetic.lean ====
section
/-! DEFINITION. Arithmetic operations, opcodes 0x20 to 0x2C (43_arithmetic.md). All four flags are written (R170). -/

namespace Sys2Proof.Machine

/-- The quotient rounded toward zero, as a word (43_arithmetic.md R173, R175). -/
def signedQuotient (a b : Word) : Word := BitVec.ofInt 32 (a.toInt.tdiv b.toInt)

/-- The remainder with the dividend's sign, as a word (43_arithmetic.md R173, R176). -/
def signedRemainder (a b : Word) : Word := BitVec.ofInt 32 (a.toInt - a.toInt.tdiv b.toInt * b.toInt)

/-- The floor of the unsigned quotient (43_arithmetic.md R177). -/
def unsignedQuotient (a b : Word) : Word := BitVec.ofNat 32 (a.toNat / b.toNat)

/-- The unsigned remainder (43_arithmetic.md R178). -/
def unsignedRemainder (a b : Word) : Word := BitVec.ofNat 32 (a.toNat - a.toNat / b.toNat * b.toNat)

/-- The signed divisions without a quotient: a zero divisor, and `-2^31 / -1` (43_arithmetic.md R173). -/
def noSignedQuotient (a b : Word) : Bool := b == 0#32 || (a == 0x80000000#32 && b == 0xFFFFFFFF#32)

/-- ADD (43_arithmetic.md R171). -/
def execAdd (c : Cond) (dest src1 src2 : Reg) (s : State) : Host.Outcome State Fault Refusal :=
  execute c .rrr s fun npc => .ok (s.writeResult dest (addFlags (s.reg src1) (s.reg src2)) npc)

/-- SUB (43_arithmetic.md R172): src1 minus src2. -/
def execSub (c : Cond) (dest src1 src2 : Reg) (s : State) : Host.Outcome State Fault Refusal :=
  execute c .rrr s fun npc => .ok (s.writeResult dest (subFlags (s.reg src1) (s.reg src2)) npc)

/-- MUL (43_arithmetic.md R174): the low 32 bits of the product. -/
def execMul (c : Cond) (dest src1 src2 : Reg) (s : State) : Host.Outcome State Fault Refusal :=
  execute c .rrr s fun npc => .ok (s.writeResult dest (logicFlags (s.reg src1 * s.reg src2)) npc)

/-- DIV (43_arithmetic.md R175). -/
def execDiv (c : Cond) (dest src1 src2 : Reg) (s : State) : Host.Outcome State Fault Refusal :=
  execute c .rrr s fun npc =>
    if noSignedQuotient (s.reg src1) (s.reg src2) then .error (.divideError s.pc)
    else .ok (s.writeResult dest (logicFlags (signedQuotient (s.reg src1) (s.reg src2))) npc)

/-- MOD (43_arithmetic.md R176). -/
def execMod (c : Cond) (dest src1 src2 : Reg) (s : State) : Host.Outcome State Fault Refusal :=
  execute c .rrr s fun npc =>
    if noSignedQuotient (s.reg src1) (s.reg src2) then .error (.divideError s.pc)
    else .ok (s.writeResult dest (logicFlags (signedRemainder (s.reg src1) (s.reg src2))) npc)

/-- DIVU (43_arithmetic.md R177). -/
def execDivu (c : Cond) (dest src1 src2 : Reg) (s : State) : Host.Outcome State Fault Refusal :=
  execute c .rrr s fun npc =>
    if s.reg src2 == 0#32 then .error (.divideError s.pc)
    else .ok (s.writeResult dest (logicFlags (unsignedQuotient (s.reg src1) (s.reg src2))) npc)

/-- MODU (43_arithmetic.md R178). -/
def execModu (c : Cond) (dest src1 src2 : Reg) (s : State) : Host.Outcome State Fault Refusal :=
  execute c .rrr s fun npc =>
    if s.reg src2 == 0#32 then .error (.divideError s.pc)
    else .ok (s.writeResult dest (logicFlags (unsignedRemainder (s.reg src1) (s.reg src2))) npc)

/-- INC (43_arithmetic.md R179): an ADD of 1, C included. -/
def execInc (c : Cond) (reg : Reg) (s : State) : Host.Outcome State Fault Refusal :=
  execute c .r s fun npc => .ok (s.writeResult reg (addFlags (s.reg reg) 1#32) npc)

/-- DEC (43_arithmetic.md R180): a SUB of 1. -/
def execDec (c : Cond) (reg : Reg) (s : State) : Host.Outcome State Fault Refusal :=
  execute c .r s fun npc => .ok (s.writeResult reg (subFlags (s.reg reg) 1#32) npc)

/-- NEG (43_arithmetic.md R181): zero minus the register. -/
def execNeg (c : Cond) (reg : Reg) (s : State) : Host.Outcome State Fault Refusal :=
  execute c .r s fun npc => .ok (s.writeResult reg (subFlags 0#32 (s.reg reg)) npc)

/-- ABS (43_arithmetic.md R182). -/
def execAbs (c : Cond) (reg : Reg) (s : State) : Host.Outcome State Fault Refusal :=
  execute c .r s fun npc => .ok (s.writeResult reg (absFlags (s.reg reg)) npc)

/-- ADDI (43_arithmetic.md R183): the immediate is unsigned. -/
def execAddi (c : Cond) (dest src : Reg) (imm : BitVec 8) (s : State) : Host.Outcome State Fault Refusal :=
  execute c .rri8 s fun npc => .ok (s.writeResult dest (addFlags (s.reg src) (immZero8 imm)) npc)

/-- SUBI (43_arithmetic.md R184): the immediate is unsigned. -/
def execSubi (c : Cond) (dest src : Reg) (imm : BitVec 8) (s : State) : Host.Outcome State Fault Refusal :=
  execute c .rri8 s fun npc => .ok (s.writeResult dest (subFlags (s.reg src) (immZero8 imm)) npc)

end Sys2Proof.Machine
end

