-- ==== Sys2Proof/Machine/Comparison.lean ====
section
/-! DEFINITION. Comparison operations, opcodes 0x80 to 0x84 (49_comparison.md): FLAGS and nothing else is written. -/

namespace Sys2Proof.Machine

/-- CMP (49_comparison.md R260): reg1 minus reg2, the difference discarded. -/
def execCmp (c : Cond) (reg1 reg2 : Reg) (s : State) : Host.Outcome State Fault Refusal :=
  execute c .rr s fun npc => .ok (s.writeFlags (subFlags (s.reg reg1) (s.reg reg2)).flags npc)

/-- CMPI (49_comparison.md R261): the immediate is unsigned. -/
def execCmpi (c : Cond) (reg : Reg) (imm : BitVec 8) (s : State) : Host.Outcome State Fault Refusal :=
  execute c .ri8 s fun npc => .ok (s.writeFlags (subFlags (s.reg reg) (immZero8 imm)).flags npc)

/-- TST (49_comparison.md R262): the conjunction discarded. -/
def execTst (c : Cond) (reg1 reg2 : Reg) (s : State) : Host.Outcome State Fault Refusal :=
  execute c .rr s fun npc => .ok (s.writeFlags (logicFlags (s.reg reg1 &&& s.reg reg2)).flags npc)

/-- TSTI (49_comparison.md R263): the immediate is unsigned. -/
def execTsti (c : Cond) (reg : Reg) (imm : BitVec 8) (s : State) : Host.Outcome State Fault Refusal :=
  execute c .ri8 s fun npc => .ok (s.writeFlags (logicFlags (s.reg reg &&& immZero8 imm)).flags npc)

/-- CMPF (49_comparison.md R264): the four flags are the open parameter `CMPF_FN` of the two words (log 11). -/
def execCmpf (c : Cond) (reg1 reg2 : Reg) (s : State) : Host.Outcome State Fault Refusal :=
  execute c .rr s fun npc => .ok (s.writeFlags (Config.cmpfFn (s.reg reg1) (s.reg reg2)) npc)

end Sys2Proof.Machine
end

