-- ==== Sys2Proof/Machine/ControlFlow.lean ====
section
/-! DEFINITION. Control flow, opcodes 0x70 to 0x77 (48_control_flow.md). A transfer takes effect at once and never
faults on its target (R253); the link is on the stack; no flag is written. -/

namespace Sys2Proof.Machine

/-- Pushes the return address and goes to a target (48_control_flow.md R247). -/
def State.callTo (s : State) (npc target : Word) : Except Fault State :=
  match s.push npc with
  | .error f => .error f
  | .ok t => .ok (t.setPc target)

/-- JMP (48_control_flow.md R245). -/
def execJmp (c : Cond) (addr : BitVec 24) (s : State) : Host.Outcome State Fault Refusal :=
  execute c .j s fun _ => .ok (s.setPc (target24 addr))

/-- JMPR (48_control_flow.md R246). -/
def execJmpr (c : Cond) (reg : Reg) (s : State) : Host.Outcome State Fault Refusal :=
  execute c .r s fun _ => .ok (s.setPc (s.reg reg))

/-- CALL (48_control_flow.md R247). -/
def execCall (c : Cond) (addr : BitVec 24) (s : State) : Host.Outcome State Fault Refusal :=
  execute c .j s fun npc => s.callTo npc (target24 addr)

/-- CALLI (48_control_flow.md R248): the register is read before the push. -/
def execCalli (c : Cond) (reg : Reg) (s : State) : Host.Outcome State Fault Refusal :=
  execute c .r s fun npc => s.callTo npc (s.reg reg)

/-- RET (48_control_flow.md R249). -/
def execRet (c : Cond) (s : State) : Host.Outcome State Fault Refusal :=
  execute c .n s fun _ =>
    match s.pop with
    | .error f => .error f
    | .ok (v, t) => .ok (t.setPc v)

/-- RETI (48_control_flow.md R250): delivers `IntReturn()`, as IRET does; no return address is popped. -/
def execReti (c : Cond) (s : State) : Host.Outcome State Fault Refusal :=
  execute c .n s fun npc => .ok (s.deliver .intReturn npc)

/-- BRA (48_control_flow.md R251). -/
def execBra (c : Cond) (imm : BitVec 8) (s : State) : Host.Outcome State Fault Refusal :=
  execute c .i8 s fun npc => .ok (s.setPc (targetRel8 npc imm))

/-- BSR (48_control_flow.md R252). -/
def execBsr (c : Cond) (imm : BitVec 8) (s : State) : Host.Outcome State Fault Refusal :=
  execute c .i8 s fun npc => s.callTo npc (targetRel8 npc imm)

end Sys2Proof.Machine
end

