-- ==== Sys2Proof/Machine/DataMovement.lean ====
section
/-! DEFINITION. Data movement, opcodes 0x10 to 0x15 (42_data_movement.md). No flag is written. -/

namespace Sys2Proof.Machine

/-- MOV (42_data_movement.md R160): REG1 receives REG2. -/
def execMov (c : Cond) (reg1 reg2 : Reg) (s : State) : Host.Outcome State Fault Refusal :=
  execute c .rr s fun npc => .ok (s.writeReg reg1 (s.reg reg2) npc)

/-- MOVI (42_data_movement.md R161): the sign-extended immediate. -/
def execMovi (c : Cond) (reg : Reg) (imm : BitVec 16) (s : State) : Host.Outcome State Fault Refusal :=
  execute c .ri16 s fun npc => .ok (s.writeReg reg (immSign16 imm) npc)

/-- LIMM (42_data_movement.md R162): the 32-bit immediate. -/
def execLimm (c : Cond) (reg : Reg) (imm : BitVec 32) (s : State) : Host.Outcome State Fault Refusal :=
  execute c .ri32 s fun npc => .ok (s.writeReg reg imm npc)

/-- MOVHI (42_data_movement.md R163): the high half is the immediate, the low half is kept. -/
def execMovhi (c : Cond) (reg : Reg) (imm : BitVec 16) (s : State) : Host.Outcome State Fault Refusal :=
  execute c .ri16 s fun npc => .ok (s.writeReg reg (highHalf imm (s.reg reg)) npc)

/-- SWAP (42_data_movement.md R164): both registers are read before either is written. -/
def execSwap (c : Cond) (reg1 reg2 : Reg) (s : State) : Host.Outcome State Fault Refusal :=
  execute c .rr s fun npc => .ok (((s.setReg reg1 (s.reg reg2)).setReg reg2 (s.reg reg1)).setPc npc)

/-- LEA (42_data_movement.md R165): the address is computed, not accessed. -/
def execLea (c : Cond) (reg base : Reg) (off : BitVec 8) (s : State) : Host.Outcome State Fault Refusal :=
  execute c .m s fun npc => .ok (s.writeReg reg (effectiveAddress s base off) npc)

end Sys2Proof.Machine
end

