-- ==== Sys2Proof/Machine/Logical.lean ====
section
/-! DEFINITION. Logical operations, opcodes 0x30 to 0x36 (44_logical.md): Z and N from the result, C and V cleared
(R190). -/

namespace Sys2Proof.Machine

/-- AND (44_logical.md R191). -/
def execAnd (c : Cond) (dest src1 src2 : Reg) (s : State) : Host.Outcome State Fault Refusal :=
  execute c .rrr s fun npc => .ok (s.writeResult dest (logicFlags (s.reg src1 &&& s.reg src2)) npc)

/-- OR (44_logical.md R192). -/
def execOr (c : Cond) (dest src1 src2 : Reg) (s : State) : Host.Outcome State Fault Refusal :=
  execute c .rrr s fun npc => .ok (s.writeResult dest (logicFlags (s.reg src1 ||| s.reg src2)) npc)

/-- XOR (44_logical.md R193). -/
def execXor (c : Cond) (dest src1 src2 : Reg) (s : State) : Host.Outcome State Fault Refusal :=
  execute c .rrr s fun npc => .ok (s.writeResult dest (logicFlags (s.reg src1 ^^^ s.reg src2)) npc)

/-- NOT (44_logical.md R194). -/
def execNot (c : Cond) (reg : Reg) (s : State) : Host.Outcome State Fault Refusal :=
  execute c .r s fun npc => .ok (s.writeResult reg (logicFlags (~~~s.reg reg)) npc)

/-- ANDI (44_logical.md R195). -/
def execAndi (c : Cond) (dest src : Reg) (imm : BitVec 8) (s : State) : Host.Outcome State Fault Refusal :=
  execute c .rri8 s fun npc => .ok (s.writeResult dest (logicFlags (s.reg src &&& immZero8 imm)) npc)

/-- ORI (44_logical.md R196). -/
def execOri (c : Cond) (dest src : Reg) (imm : BitVec 8) (s : State) : Host.Outcome State Fault Refusal :=
  execute c .rri8 s fun npc => .ok (s.writeResult dest (logicFlags (s.reg src ||| immZero8 imm)) npc)

/-- XORI (44_logical.md R197). -/
def execXori (c : Cond) (dest src : Reg) (imm : BitVec 8) (s : State) : Host.Outcome State Fault Refusal :=
  execute c .rri8 s fun npc => .ok (s.writeResult dest (logicFlags (s.reg src ^^^ immZero8 imm)) npc)

end Sys2Proof.Machine
end

