-- ==== Sys2Proof/Machine/MemoryOps.lean ====
section
/-! DEFINITION. Memory operations, opcodes 0x50 to 0x57 (46_memory_ops.md). One addressing mode (R215); no flag is
written. -/

namespace Sys2Proof.Machine

/-- A load of a width whose value is extended in some way: the address is computed from the old base register
(46_memory_ops.md R215). -/
def State.load (s : State) (reg base : Reg) (off : BitVec 8) (w : Width) (extend : Word → Word) (npc : Word) :
    Except Fault State :=
  match s.memRead (effectiveAddress s base off) w with
  | .error f => .error f
  | .ok v => .ok (s.writeReg reg (extend v) npc)

/-- A store of a width: the low bytes of the register (46_memory_ops.md R215, R219, R221). -/
def State.store (s : State) (reg base : Reg) (off : BitVec 8) (w : Width) (npc : Word) : Except Fault State :=
  match s.memWrite (effectiveAddress s base off) w (s.reg reg) with
  | .error f => .error f
  | .ok t => .ok (t.setPc npc)

/-- A byte's value, sign-extended (46_memory_ops.md R222). -/
def signByte (v : Word) : Word := (v.setWidth 8).signExtend 32

/-- A halfword's value, sign-extended (46_memory_ops.md R223). -/
def signHalf (v : Word) : Word := (v.setWidth 16).signExtend 32

/-- LOAD (46_memory_ops.md R216). -/
def execLoad (c : Cond) (reg base : Reg) (off : BitVec 8) (s : State) : Host.Outcome State Fault Refusal :=
  execute c .m s fun npc => s.load reg base off .word id npc

/-- STORE (46_memory_ops.md R217). -/
def execStore (c : Cond) (reg base : Reg) (off : BitVec 8) (s : State) : Host.Outcome State Fault Refusal :=
  execute c .m s fun npc => s.store reg base off .word npc

/-- LOADB (46_memory_ops.md R218): zero-extended. -/
def execLoadb (c : Cond) (reg base : Reg) (off : BitVec 8) (s : State) : Host.Outcome State Fault Refusal :=
  execute c .m s fun npc => s.load reg base off .byte id npc

/-- STOREB (46_memory_ops.md R219): the low byte. -/
def execStoreb (c : Cond) (reg base : Reg) (off : BitVec 8) (s : State) : Host.Outcome State Fault Refusal :=
  execute c .m s fun npc => s.store reg base off .byte npc

/-- LOADH (46_memory_ops.md R220): zero-extended. -/
def execLoadh (c : Cond) (reg base : Reg) (off : BitVec 8) (s : State) : Host.Outcome State Fault Refusal :=
  execute c .m s fun npc => s.load reg base off .half id npc

/-- STOREH (46_memory_ops.md R221): the low halfword. -/
def execStoreh (c : Cond) (reg base : Reg) (off : BitVec 8) (s : State) : Host.Outcome State Fault Refusal :=
  execute c .m s fun npc => s.store reg base off .half npc

/-- LOADSB (46_memory_ops.md R222): sign-extended. -/
def execLoadsb (c : Cond) (reg base : Reg) (off : BitVec 8) (s : State) : Host.Outcome State Fault Refusal :=
  execute c .m s fun npc => s.load reg base off .byte signByte npc

/-- LOADSH (46_memory_ops.md R223): sign-extended. -/
def execLoadsh (c : Cond) (reg base : Reg) (off : BitVec 8) (s : State) : Host.Outcome State Fault Refusal :=
  execute c .m s fun npc => s.load reg base off .half signHalf npc

end Sys2Proof.Machine
end

