-- ==== Sys2Proof/Machine/Shift.lean ====
section
/-! DEFINITION. Shift operations, opcodes 0x40 to 0x47 (45_shift.md): counts are taken modulo 32, Z and N come from the
result, C and V are cleared (R200). -/

namespace Sys2Proof.Machine

/-- Rotation left of the 32 bits (45_shift.md R204). -/
def rotateLeft (a : Word) (n : Nat) : Word := if n = 0 then a else (a <<< n) ||| (a >>> (32 - n))

/-- Rotation right of the 32 bits (45_shift.md R205). -/
def rotateRight (a : Word) (n : Nat) : Word := if n = 0 then a else (a >>> n) ||| (a <<< (32 - n))

/-- SHL (45_shift.md R201). -/
def execShl (c : Cond) (dest src1 src2 : Reg) (s : State) : Host.Outcome State Fault Refusal :=
  execute c .rrr s fun npc => .ok (s.writeResult dest (logicFlags (s.reg src1 <<< shiftCount (s.reg src2))) npc)

/-- SHR (45_shift.md R202). -/
def execShr (c : Cond) (dest src1 src2 : Reg) (s : State) : Host.Outcome State Fault Refusal :=
  execute c .rrr s fun npc => .ok (s.writeResult dest (logicFlags (s.reg src1 >>> shiftCount (s.reg src2))) npc)

/-- SAR (45_shift.md R203). -/
def execSar (c : Cond) (dest src1 src2 : Reg) (s : State) : Host.Outcome State Fault Refusal :=
  execute c .rrr s fun npc =>
    .ok (s.writeResult dest (logicFlags ((s.reg src1).sshiftRight (shiftCount (s.reg src2)))) npc)

/-- ROL (45_shift.md R204). -/
def execRol (c : Cond) (dest src1 src2 : Reg) (s : State) : Host.Outcome State Fault Refusal :=
  execute c .rrr s fun npc =>
    .ok (s.writeResult dest (logicFlags (rotateLeft (s.reg src1) (shiftCount (s.reg src2)))) npc)

/-- ROR (45_shift.md R205). -/
def execRor (c : Cond) (dest src1 src2 : Reg) (s : State) : Host.Outcome State Fault Refusal :=
  execute c .rrr s fun npc =>
    .ok (s.writeResult dest (logicFlags (rotateRight (s.reg src1) (shiftCount (s.reg src2)))) npc)

/-- SHLI (45_shift.md R206). -/
def execShli (c : Cond) (dest src : Reg) (imm : BitVec 5) (s : State) : Host.Outcome State Fault Refusal :=
  execute c .rri5 s fun npc => .ok (s.writeResult dest (logicFlags (s.reg src <<< imm.toNat)) npc)

/-- SHRI (45_shift.md R207). -/
def execShri (c : Cond) (dest src : Reg) (imm : BitVec 5) (s : State) : Host.Outcome State Fault Refusal :=
  execute c .rri5 s fun npc => .ok (s.writeResult dest (logicFlags (s.reg src >>> imm.toNat)) npc)

/-- SARI (45_shift.md R208). -/
def execSari (c : Cond) (dest src : Reg) (imm : BitVec 5) (s : State) : Host.Outcome State Fault Refusal :=
  execute c .rri5 s fun npc => .ok (s.writeResult dest (logicFlags ((s.reg src).sshiftRight imm.toNat)) npc)

end Sys2Proof.Machine
end

