-- ==== Sys2Proof/Machine/Stack.lean ====
section
/-! DEFINITION. Stack operations, opcodes 0x60 to 0x66 (47_stack.md), over `State.push` and `State.pop`. No flag is
written; every instruction is all-or-nothing (60_exceptions.md R279). -/

namespace Sys2Proof.Machine

/-- PUSH (47_stack.md R230). -/
def execPush (c : Cond) (reg : Reg) (s : State) : Host.Outcome State Fault Refusal :=
  execute c .r s fun npc =>
    match s.push (s.reg reg) with
    | .error f => .error f
    | .ok t => .ok (t.setPc npc)

/-- POP (47_stack.md R231). -/
def execPop (c : Cond) (reg : Reg) (s : State) : Host.Outcome State Fault Refusal :=
  execute c .r s fun npc =>
    match s.pop with
    | .error f => .error f
    | .ok (v, t) => .ok (t.writeReg reg v npc)

/-- PUSHM (47_stack.md R232): from R15 down to R0. -/
def execPushm (c : Cond) (imm : BitVec 16) (s : State) : Host.Outcome State Fault Refusal :=
  execute c .i16 s fun npc =>
    match s.pushAll (maskDown imm) with
    | .error f => .error f
    | .ok t => .ok (t.setPc npc)

/-- POPM (47_stack.md R233): from R0 up to R15. -/
def execPopm (c : Cond) (imm : BitVec 16) (s : State) : Host.Outcome State Fault Refusal :=
  execute c .i16 s fun npc =>
    match s.popAll (maskUp imm) with
    | .error f => .error f
    | .ok t => .ok (t.setPc npc)

/-- ENTER (47_stack.md R234): push R15, R15 receives SP, SP is lowered by the size. -/
def execEnter (c : Cond) (imm : BitVec 16) (s : State) : Host.Outcome State Fault Refusal :=
  execute c .i16 s fun npc =>
    match s.push (s.reg 15) with
    | .error f => .error f
    | .ok t => .ok (((t.setReg 15 t.sp).setSp (t.sp - immZero16 imm)).setPc npc)

/-- LEAVE (47_stack.md R235): SP from R15, then the saved R15 popped. -/
def execLeave (c : Cond) (s : State) : Host.Outcome State Fault Refusal :=
  execute c .n s fun npc =>
    match s.memRead (s.reg 15) .word with
    | .error f => .error f
    | .ok v => .ok (((s.setSp (s.reg 15 + 4#32)).setReg 15 v).setPc npc)

/-- ALLOCA (47_stack.md R236): SP is lowered by the register's value; no memory is accessed. -/
def execAlloca (c : Cond) (reg : Reg) (s : State) : Host.Outcome State Fault Refusal :=
  execute c .r s fun npc => .ok ((s.setSp (s.sp - s.reg reg)).setPc npc)

end Sys2Proof.Machine
end

