-- ==== Sys2Proof/Machine/System.lean ====
section
/-! DEFINITION. System operations, opcodes 0x00 to 0x04 (41_system.md). -/

namespace Sys2Proof.Machine

/-- HALT (41_system.md R150): sets `halted` and leaves `pc` after it. -/
def execHalt (c : Cond) (s : State) : Host.Outcome State Fault Refusal :=
  execute c .n s fun npc => .ok ((s.setHalted true).setPc npc)

/-- SYSCALL (41_system.md R151): delivers the number in R0 and the arguments in R1 to R5. -/
def execSyscall (c : Cond) (s : State) : Host.Outcome State Fault Refusal :=
  execute c .n s fun npc =>
    .ok (s.deliver (.sysCall (s.reg 0) (s.reg 1) (s.reg 2) (s.reg 3) (s.reg 4) (s.reg 5)) npc)

/-- TRAP (41_system.md R152): delivers its number, zero-extended. -/
def execTrap (c : Cond) (imm : BitVec 8) (s : State) : Host.Outcome State Fault Refusal :=
  execute c .i8 s fun npc => .ok (s.deliver (.trap (immZero8 imm)) npc)

/-- INT (41_system.md R153): delivers its number, zero-extended; nothing is pushed. -/
def execInt (c : Cond) (imm : BitVec 8) (s : State) : Host.Outcome State Fault Refusal :=
  execute c .i8 s fun npc => .ok (s.deliver (.softInt (immZero8 imm)) npc)

/-- IRET (41_system.md R154): delivers `IntReturn()`; nothing is popped. -/
def execIret (c : Cond) (s : State) : Host.Outcome State Fault Refusal :=
  execute c .n s fun npc => .ok (s.deliver .intReturn npc)

end Sys2Proof.Machine
end

