-- ==== Sys2Proof/Machine/Dispatch.lean ====
section
/-! DEFINITION. One arm per instruction, in the order of the opcode map (30_encoding.md R110). -/

namespace Sys2Proof.Machine

def exec (i : Instr) (s : State) : Host.Outcome State Fault Refusal :=
  match i with
  | .halt c => Sys2Proof.Machine.execHalt c s
  | .syscall c => Sys2Proof.Machine.execSyscall c s
  | .trap c imm => Sys2Proof.Machine.execTrap c imm s
  | .int c imm => Sys2Proof.Machine.execInt c imm s
  | .iret c => Sys2Proof.Machine.execIret c s
  | .mov c reg1 reg2 => Sys2Proof.Machine.execMov c reg1 reg2 s
  | .movi c reg imm => Sys2Proof.Machine.execMovi c reg imm s
  | .limm c reg imm => Sys2Proof.Machine.execLimm c reg imm s
  | .movhi c reg imm => Sys2Proof.Machine.execMovhi c reg imm s
  | .swap c reg1 reg2 => Sys2Proof.Machine.execSwap c reg1 reg2 s
  | .lea c reg base off => Sys2Proof.Machine.execLea c reg base off s
  | .add c dest src1 src2 => Sys2Proof.Machine.execAdd c dest src1 src2 s
  | .sub c dest src1 src2 => Sys2Proof.Machine.execSub c dest src1 src2 s
  | .mul c dest src1 src2 => Sys2Proof.Machine.execMul c dest src1 src2 s
  | .div c dest src1 src2 => Sys2Proof.Machine.execDiv c dest src1 src2 s
  | .mod c dest src1 src2 => Sys2Proof.Machine.execMod c dest src1 src2 s
  | .divu c dest src1 src2 => Sys2Proof.Machine.execDivu c dest src1 src2 s
  | .modu c dest src1 src2 => Sys2Proof.Machine.execModu c dest src1 src2 s
  | .inc c reg => Sys2Proof.Machine.execInc c reg s
  | .dec c reg => Sys2Proof.Machine.execDec c reg s
  | .neg c reg => Sys2Proof.Machine.execNeg c reg s
  | .abs c reg => Sys2Proof.Machine.execAbs c reg s
  | .addi c dest src imm => Sys2Proof.Machine.execAddi c dest src imm s
  | .subi c dest src imm => Sys2Proof.Machine.execSubi c dest src imm s
  | .and c dest src1 src2 => Sys2Proof.Machine.execAnd c dest src1 src2 s
  | .or c dest src1 src2 => Sys2Proof.Machine.execOr c dest src1 src2 s
  | .xor c dest src1 src2 => Sys2Proof.Machine.execXor c dest src1 src2 s
  | .not c reg => Sys2Proof.Machine.execNot c reg s
  | .andi c dest src imm => Sys2Proof.Machine.execAndi c dest src imm s
  | .ori c dest src imm => Sys2Proof.Machine.execOri c dest src imm s
  | .xori c dest src imm => Sys2Proof.Machine.execXori c dest src imm s
  | .shl c dest src1 src2 => Sys2Proof.Machine.execShl c dest src1 src2 s
  | .shr c dest src1 src2 => Sys2Proof.Machine.execShr c dest src1 src2 s
  | .sar c dest src1 src2 => Sys2Proof.Machine.execSar c dest src1 src2 s
  | .rol c dest src1 src2 => Sys2Proof.Machine.execRol c dest src1 src2 s
  | .ror c dest src1 src2 => Sys2Proof.Machine.execRor c dest src1 src2 s
  | .shli c dest src imm => Sys2Proof.Machine.execShli c dest src imm s
  | .shri c dest src imm => Sys2Proof.Machine.execShri c dest src imm s
  | .sari c dest src imm => Sys2Proof.Machine.execSari c dest src imm s
  | .load c reg base off => Sys2Proof.Machine.execLoad c reg base off s
  | .store c reg base off => Sys2Proof.Machine.execStore c reg base off s
  | .loadb c reg base off => Sys2Proof.Machine.execLoadb c reg base off s
  | .storeb c reg base off => Sys2Proof.Machine.execStoreb c reg base off s
  | .loadh c reg base off => Sys2Proof.Machine.execLoadh c reg base off s
  | .storeh c reg base off => Sys2Proof.Machine.execStoreh c reg base off s
  | .loadsb c reg base off => Sys2Proof.Machine.execLoadsb c reg base off s
  | .loadsh c reg base off => Sys2Proof.Machine.execLoadsh c reg base off s
  | .push c reg => Sys2Proof.Machine.execPush c reg s
  | .pop c reg => Sys2Proof.Machine.execPop c reg s
  | .pushm c imm => Sys2Proof.Machine.execPushm c imm s
  | .popm c imm => Sys2Proof.Machine.execPopm c imm s
  | .enter c imm => Sys2Proof.Machine.execEnter c imm s
  | .leave c => Sys2Proof.Machine.execLeave c s
  | .alloca c reg => Sys2Proof.Machine.execAlloca c reg s
  | .jmp c addr => Sys2Proof.Machine.execJmp c addr s
  | .jmpr c reg => Sys2Proof.Machine.execJmpr c reg s
  | .call c addr => Sys2Proof.Machine.execCall c addr s
  | .calli c reg => Sys2Proof.Machine.execCalli c reg s
  | .ret c => Sys2Proof.Machine.execRet c s
  | .reti c => Sys2Proof.Machine.execReti c s
  | .bra c imm => Sys2Proof.Machine.execBra c imm s
  | .bsr c imm => Sys2Proof.Machine.execBsr c imm s
  | .cmp c reg1 reg2 => Sys2Proof.Machine.execCmp c reg1 reg2 s
  | .cmpi c reg imm => Sys2Proof.Machine.execCmpi c reg imm s
  | .tst c reg1 reg2 => Sys2Proof.Machine.execTst c reg1 reg2 s
  | .tsti c reg imm => Sys2Proof.Machine.execTsti c reg imm s
  | .cmpf c reg1 reg2 => Sys2Proof.Machine.execCmpf c reg1 reg2 s

end Sys2Proof.Machine
end

