-- ==== Sys2Proof/Machine/Environment.lean ====
section
/-! DEFINITION. The environment `ENV`, an open parameter (00_scope.md R9), and its answer to a delivered event
(60_exceptions.md R280 to R289). Every answer is a constant without a body applied to the whole state, whose counter of
answers makes each one fresh: a claim holds whatever the environment answers (log 8). The answer is then cut down to what
the spec lets the environment change. -/

namespace Sys2Proof.Machine

/-- The machine an environment leaves after TRAP, INT, IRET or RETI: any registers, flags, run state and memory bytes
(60_exceptions.md R287 to R289; log 20). -/
structure EnvMachine where
  regs : Vector Word 16
  pc : Word
  sp : Word
  flags : Flags
  halted : Bool
  /-- The bytes the environment stores, in order. -/
  stores : List Host.Cell
deriving DecidableEq, Repr, Inhabited

/-- The answer to TRAP, INT, IRET and RETI: "either a new machine state from which the machine resumes, or the end of
the run" (60_exceptions.md R287). -/
inductive EnvReply where
  | resume (m : EnvMachine)
  | endRun
deriving DecidableEq, Repr, Inhabited

/-- The answer to a system call that resumes (60_exceptions.md R282, R285). -/
structure SysReply where
  /-- R0, the return value. -/
  result : Word
  /-- R1, the error code "if applicable". -/
  error : Word
  /-- The bytes the environment stores, in order, before they are cut down to what R285 allows. -/
  stores : List Host.Cell
  /-- The block an allocator returns: its first address and its length; where blocks lie is the environment's. -/
  blockReturned : Nat × Nat
  /-- The block an allocator was given: its first address and its length. -/
  blockGiven : Nat × Nat
deriving DecidableEq, Repr, Inhabited

end Sys2Proof.Machine

namespace Sys2Proof

/-- `ENV`'s answer to a system call; no body, so it may be any (60_exceptions.md R282; log 8). -/
opaque Config.sysReply : Machine.State → Machine.SysReply

/-- Whether `ENV` defines this call: asked only of an allocator call and of a number outside the table of R283
(60_exceptions.md R285; log 9). -/
opaque Config.sysDefined : Machine.State → Bool

/-- `ENV`'s answer to `Trap(n)`; no body, so it may be any (60_exceptions.md R287; log 8). -/
opaque Config.trapReply : Machine.State → Word → Machine.EnvReply

/-- `ENV`'s answer to `SoftInt(n)`; no body, so it may be any (60_exceptions.md R288; log 8). -/
opaque Config.softIntReply : Machine.State → Word → Machine.EnvReply

/-- `ENV`'s answer to `IntReturn()`; no body, so it may be any (60_exceptions.md R289; log 8). -/
opaque Config.intReturnReply : Machine.State → Machine.EnvReply

end Sys2Proof

namespace Sys2Proof.Machine

/-- Stores the environment's bytes, in order, at the addresses it may write; an address outside memory holds no byte. -/
def storeAllowed (memSize : Nat) (may : Nat → Bool) : Memory → List Host.Cell → Memory
  | m, [] => m
  | m, (a, b) :: rest =>
    storeAllowed memSize may (if a < memSize ∧ may a then m.write a b else m) rest

/-! ## TRAP, INT, IRET and RETI -/

/-- The state after an unconstrained answer (60_exceptions.md R287 to R289). -/
def State.answerReply (s : State) : EnvReply → State
  | .resume m =>
    { s.resume with
      regs := m.regs
      pc := m.pc
      sp := m.sp
      flags := m.flags
      halted := m.halted
      mem := storeAllowed s.memSize (fun _ => true) s.mem m.stores }
  | .endRun => s.endRun none

/-! ## System calls -/

/-- The nine standard calls (60_exceptions.md R283). -/
inductive SysName where
  | alloc | free | realloc | read | write | open_ | close | exit | print
deriving DecidableEq, Repr, Inhabited

/-- The call a number names; `none` outside the table (60_exceptions.md R283). -/
def sysName (number : Word) : Option SysName :=
  match number.toNat with
  | 1 => some .alloc
  | 2 => some .free
  | 3 => some .realloc
  | 10 => some .read
  | 11 => some .write
  | 12 => some .open_
  | 13 => some .close
  | 20 => some .exit
  | 30 => some .print
  | _ => none

/-- The buffer a call hands to the environment, where its address and length are arguments: `[R2, R2 + R3)` of SYS_READ
and SYS_WRITE, `[R1, R1 + R2)` of SYS_PRINT (60_exceptions.md R283, R285; log 10). -/
def sysBuffer (name : Option SysName) (arg1 arg2 arg3 : Word) : Nat × Nat :=
  match name with
  | some .read => (arg2.toNat, arg3.toNat)
  | some .write => (arg2.toNat, arg3.toNat)
  | some .print => (arg1.toNat, arg2.toNat)
  | _ => (0, 0)

/-- A byte range lies wholly inside memory; an empty one always does (60_exceptions.md R285; log 10). -/
def rangeInside (memSize : Nat) (r : Nat × Nat) : Bool := r.2 == 0 || decide (r.1 + r.2 ≤ memSize)

/-- An address lies in a byte range. -/
def inRange (r : Nat × Nat) (a : Nat) : Bool := decide (r.1 ≤ a) && decide (a < r.1 + r.2)

/-- Which bytes a system call may write (60_exceptions.md R285); a call outside the table writes what the environment
that defines it says. -/
def sysMayWrite (name : Option SysName) (arg2 arg3 : Word) (reply : SysReply) (a : Nat) : Bool :=
  match name with
  | some .read => inRange (arg2.toNat, arg3.toNat) a
  | some .alloc => inRange reply.blockReturned a
  | some .realloc => inRange reply.blockReturned a || inRange reply.blockGiven a
  | some .free => inRange reply.blockGiven a
  | some .write => false
  | some .open_ => false
  | some .close => false
  | some .print => false
  | some .exit => false
  | none => true

/-- Whether the spec's own rules, and not only the environment, define the call (60_exceptions.md R285). -/
def sysStandard (name : Option SysName) : Bool :=
  match name with
  | some .read => true
  | some .write => true
  | some .open_ => true
  | some .close => true
  | some .exit => true
  | some .print => true
  | some .alloc => false
  | some .free => false
  | some .realloc => false
  | none => false

/-- The state after a system call resumes: R0, R1 and the allowed bytes of memory change, all else is preserved
(60_exceptions.md R282, R284, R285). -/
def State.sysResume (s : State) (may : Nat → Bool) (reply : SysReply) : State :=
  (((s.setReg 0 reply.result).setReg 1 reply.error).setMem
    (storeAllowed s.memSize may s.mem reply.stores)).resume

/-- The environment's answer to `SysCall` (60_exceptions.md R282 to R286). Only SYS_EXIT, number 20, ends the run: a call
outside the table that the environment defines always resumes. R280 names no other end of a system call, but R316 of
70_reset_and_hazards.md says so only of the standard calls; DESIGN CHOICE, unsafe (log 26). -/
def State.answerSysCall (s : State) (number arg1 arg2 arg3 : Word) : Host.Outcome State Fault Refusal :=
  let name := sysName number
  if name = some .exit then .next (s.endRun (some arg1))
  else if !sysStandard name && !Config.sysDefined s then .refused (.callNotDefined number)
  else if rangeInside s.memSize (sysBuffer name arg1 arg2 arg3) then
    .next (s.sysResume (sysMayWrite name arg2 arg3 (Config.sysReply s)) (Config.sysReply s))
  else .refused (.bufferOutsideMemory number)

/-- The environment's answer to a delivered event (60_exceptions.md R281). -/
def State.answer (s : State) : Event → Host.Outcome State Fault Refusal
  | .sysCall number arg1 arg2 arg3 _ _ => s.answerSysCall number arg1 arg2 arg3
  | .trap n => .next (s.answerReply (Config.trapReply s n))
  | .softInt n => .next (s.answerReply (Config.softIntReply s n))
  | .intReturn => .next (s.answerReply (Config.intReturnReply s))

end Sys2Proof.Machine
end

