-- ==== Sys2Proof/WellFormed.lean ====
section
/-! DEFINITION. Which byte strings are legal instructions (30_encoding.md R101, R112), written from the opcode map's
masks and independently of the decoder. The operands of a term of `Instr` have exactly their fields' widths, so the
checks that remain are the checks on encodings: the length, the reserved FLAGS field, the opcode and the PAD bits. -/

namespace Sys2Proof

/-- The bits a legal instruction of a layout may not choose, one byte a byte: FLAGS field, OPCODE and every PAD bit
(30_encoding.md R101: "the mask covers the FLAGS field, OPCODE and every PAD bit"). -/
def Layout.mask : Layout → List Byte
  | .n => [0x1F#8, 0xFF#8]
  | .rrr => [0x1F#8, 0xFF#8, 0x00#8, 0x0F#8]
  | .rr => [0x1F#8, 0xFF#8, 0x00#8, 0xFF#8]
  | .ri8 => [0x1F#8, 0xFF#8, 0x0F#8, 0x00#8]
  | .ri16 => [0x1F#8, 0xFF#8, 0x0F#8, 0xFF#8, 0x00#8, 0x00#8]
  | .m => [0x1F#8, 0xFF#8, 0x00#8, 0x00#8]
  | .j => [0x1F#8, 0xFF#8, 0x00#8, 0x00#8, 0x00#8]
  | .r => [0x1F#8, 0xFF#8, 0x0F#8, 0xFF#8]
  | .i8 => [0x1F#8, 0xFF#8, 0xFF#8, 0x00#8]
  | .rri8 => [0x1F#8, 0xFF#8, 0x00#8, 0x00#8]
  | .rri5 => [0x1F#8, 0xFF#8, 0x00#8, 0xE0#8]
  | .i16 => [0x1F#8, 0xFF#8, 0xFF#8, 0xFF#8, 0x00#8, 0x00#8]
  | .ri32 => [0x1F#8, 0xFF#8, 0x0F#8, 0xFF#8, 0x00#8, 0x00#8, 0x00#8, 0x00#8]

/-- The opcode map's OPCODE and Fmt columns (30_encoding.md R110). -/
def opcodeMap : List (Byte × Layout) :=
  [(0x00#8, .n), (0x01#8, .n), (0x02#8, .i8), (0x03#8, .i8), (0x04#8, .n)] ++
  [(0x10#8, .rr), (0x11#8, .ri16), (0x12#8, .ri32), (0x13#8, .ri16), (0x14#8, .rr), (0x15#8, .m)] ++
  [(0x20#8, .rrr), (0x21#8, .rrr), (0x22#8, .rrr), (0x23#8, .rrr), (0x24#8, .rrr), (0x25#8, .rrr), (0x26#8, .rrr), (0x27#8, .r), (0x28#8, .r), (0x29#8, .r), (0x2A#8, .r), (0x2B#8, .rri8), (0x2C#8, .rri8)] ++
  [(0x30#8, .rrr), (0x31#8, .rrr), (0x32#8, .rrr), (0x33#8, .r), (0x34#8, .rri8), (0x35#8, .rri8), (0x36#8, .rri8)] ++
  [(0x40#8, .rrr), (0x41#8, .rrr), (0x42#8, .rrr), (0x43#8, .rrr), (0x44#8, .rrr), (0x45#8, .rri5), (0x46#8, .rri5), (0x47#8, .rri5)] ++
  [(0x50#8, .m), (0x51#8, .m), (0x52#8, .m), (0x53#8, .m), (0x54#8, .m), (0x55#8, .m), (0x56#8, .m), (0x57#8, .m)] ++
  [(0x60#8, .r), (0x61#8, .r), (0x62#8, .i16), (0x63#8, .i16), (0x64#8, .i16), (0x65#8, .n), (0x66#8, .r)] ++
  [(0x70#8, .j), (0x71#8, .r), (0x72#8, .j), (0x73#8, .r), (0x74#8, .n), (0x75#8, .n), (0x76#8, .i8), (0x77#8, .i8)] ++
  [(0x80#8, .rr), (0x81#8, .ri8), (0x82#8, .rr), (0x83#8, .ri8), (0x84#8, .rr)]

/-- The layout of a defined opcode; `none` for a reserved one (30_encoding.md R110, R111). -/
def layoutOf (op : Byte) : Option Layout :=
  (opcodeMap.find? (fun row => row.1 == op)).map (·.2)

/-- The fixed bits of the instruction with this opcode and layout: the row's `match`. -/
def Layout.fixed (l : Layout) (op : Byte) : List Byte :=
  0#8 :: op :: List.replicate l.operandBytes 0#8

/-- The FLAGS field, bits 4-0 of Byte 1, is zero (30_encoding.md R82). -/
def flagsFieldZero (bs : List Byte) : Bool := bs.headD 0#8 &&& 0x1F#8 == 0#8

/-- The opcode, Byte 2, is defined (30_encoding.md R111). -/
def opcodeDefined (bs : List Byte) : Bool := (layoutOf (bs.tail.headD 0xFF#8)).isSome

/-- The length is the one the opcode fixes (30_encoding.md R84). -/
def lengthRight (l : Layout) (bs : List Byte) : Bool := bs.length == l.len

/-- Every fixed bit, the PAD bits among them, has its fixed value: `(I & mask) = match` (30_encoding.md R98, R101). -/
def fixedBitsRight (l : Layout) (op : Byte) (bs : List Byte) : Bool :=
  List.zipWith (· &&& ·) bs l.mask == l.fixed op

/-- A byte string is one legal instruction (30_encoding.md R101, R112). -/
def wellFormedBytes (bs : List Byte) : Bool :=
  flagsFieldZero bs && opcodeDefined bs &&
    match layoutOf (bs.tail.headD 0xFF#8) with
    | none => false
    | some l => lengthRight l bs && fixedBitsRight l (bs.tail.headD 0xFF#8) bs

end Sys2Proof
end

