-- ==== Sys2Proof/Decode.lean ====
section
/-! DEFINITION. The decoder, total on any bytes and rejecting by name, and the encoder (30_encoding.md R80 to R101, R110).
Byte 1 stands first, every multi-byte field most significant byte first (20_memory.md R52). -/

namespace Sys2Proof

/-! ## Bit fields -/

/-- Bits 7-4 of a byte. -/
def hiNibble (b : Byte) : BitVec 4 := b.extractLsb' 4 4

/-- Bits 3-0 of a byte. -/
def loNibble (b : Byte) : BitVec 4 := b.extractLsb' 0 4

/-- The register a four-bit field names (10_state.md R20). -/
def regOf (v : BitVec 4) : Reg := v.toFin

/-- The four-bit field that names a register. -/
def regBits (r : Reg) : BitVec 4 := BitVec.ofFin r

/-- The CONDITION field of Byte 1, header bits 15-13 (30_encoding.md R81). -/
def condBits (b1 : Byte) : BitVec 3 := b1.extractLsb' 5 3

/-- The FLAGS field of Byte 1, header bits 12-8 (30_encoding.md R82). -/
def flagsField (b1 : Byte) : BitVec 5 := b1.extractLsb' 0 5

/-- The condition with a given code (30_encoding.md R81). -/
def condOf (v : BitVec 3) : Cond :=
  match v.toNat with
  | 0 => .always
  | 1 => .ne
  | 2 => .ge
  | 3 => .gt
  | 4 => .never
  | 5 => .eq
  | 6 => .lt
  | _ => .le

/-! ## The decoder -/

/-- Why bytes are no instruction. -/
inductive DecodeError where
  /-- The bytes end before the instruction does. -/
  | truncated
  /-- The FLAGS field is not zero (30_encoding.md R82). -/
  | flagsFieldNotZero
  /-- The opcode is reserved (30_encoding.md R111). -/
  | reservedOpcode
  /-- A PAD bit is not zero (30_encoding.md R98). -/
  | padNotZero
deriving DecidableEq, Repr

/-- What an opcode says of the bytes after it: its layout, and the instruction made from that layout's fields. -/
inductive Pattern where
  | n (mk : Instr)
  | rrr (mk : Reg → Reg → Reg → Instr)
  | rr (mk : Reg → Reg → Instr)
  | ri8 (mk : Reg → BitVec 8 → Instr)
  | ri16 (mk : Reg → BitVec 16 → Instr)
  | m (mk : Reg → Reg → BitVec 8 → Instr)
  | j (mk : BitVec 24 → Instr)
  | r (mk : Reg → Instr)
  | i8 (mk : BitVec 8 → Instr)
  | rri8 (mk : Reg → Reg → BitVec 8 → Instr)
  | rri5 (mk : Reg → Reg → BitVec 5 → Instr)
  | i16 (mk : BitVec 16 → Instr)
  | ri32 (mk : Reg → BitVec 32 → Instr)

/-- The layout of a pattern. -/
def Pattern.layout : Pattern → Layout
  | .n _ => .n
  | .rrr _ => .rrr
  | .rr _ => .rr
  | .ri8 _ => .ri8
  | .ri16 _ => .ri16
  | .m _ => .m
  | .j _ => .j
  | .r _ => .r
  | .i8 _ => .i8
  | .rri8 _ => .rri8
  | .rri5 _ => .rri5
  | .i16 _ => .i16
  | .ri32 _ => .ri32

/-- The opcode map (30_encoding.md R110): the pattern of a defined opcode under a condition, `none` for a reserved
opcode (R111). -/
def pattern (c : Cond) (op : Byte) : Option Pattern :=
  match op.toNat with
  | 0x00 => some (.n (.halt c))
  | 0x01 => some (.n (.syscall c))
  | 0x02 => some (.i8 (.trap c))
  | 0x03 => some (.i8 (.int c))
  | 0x04 => some (.n (.iret c))
  | 0x10 => some (.rr (.mov c))
  | 0x11 => some (.ri16 (.movi c))
  | 0x12 => some (.ri32 (.limm c))
  | 0x13 => some (.ri16 (.movhi c))
  | 0x14 => some (.rr (.swap c))
  | 0x15 => some (.m (.lea c))
  | 0x20 => some (.rrr (.add c))
  | 0x21 => some (.rrr (.sub c))
  | 0x22 => some (.rrr (.mul c))
  | 0x23 => some (.rrr (.div c))
  | 0x24 => some (.rrr (.mod c))
  | 0x25 => some (.rrr (.divu c))
  | 0x26 => some (.rrr (.modu c))
  | 0x27 => some (.r (.inc c))
  | 0x28 => some (.r (.dec c))
  | 0x29 => some (.r (.neg c))
  | 0x2A => some (.r (.abs c))
  | 0x2B => some (.rri8 (.addi c))
  | 0x2C => some (.rri8 (.subi c))
  | 0x30 => some (.rrr (.and c))
  | 0x31 => some (.rrr (.or c))
  | 0x32 => some (.rrr (.xor c))
  | 0x33 => some (.r (.not c))
  | 0x34 => some (.rri8 (.andi c))
  | 0x35 => some (.rri8 (.ori c))
  | 0x36 => some (.rri8 (.xori c))
  | 0x40 => some (.rrr (.shl c))
  | 0x41 => some (.rrr (.shr c))
  | 0x42 => some (.rrr (.sar c))
  | 0x43 => some (.rrr (.rol c))
  | 0x44 => some (.rrr (.ror c))
  | 0x45 => some (.rri5 (.shli c))
  | 0x46 => some (.rri5 (.shri c))
  | 0x47 => some (.rri5 (.sari c))
  | 0x50 => some (.m (.load c))
  | 0x51 => some (.m (.store c))
  | 0x52 => some (.m (.loadb c))
  | 0x53 => some (.m (.storeb c))
  | 0x54 => some (.m (.loadh c))
  | 0x55 => some (.m (.storeh c))
  | 0x56 => some (.m (.loadsb c))
  | 0x57 => some (.m (.loadsh c))
  | 0x60 => some (.r (.push c))
  | 0x61 => some (.r (.pop c))
  | 0x62 => some (.i16 (.pushm c))
  | 0x63 => some (.i16 (.popm c))
  | 0x64 => some (.i16 (.enter c))
  | 0x65 => some (.n (.leave c))
  | 0x66 => some (.r (.alloca c))
  | 0x70 => some (.j (.jmp c))
  | 0x71 => some (.r (.jmpr c))
  | 0x72 => some (.j (.call c))
  | 0x73 => some (.r (.calli c))
  | 0x74 => some (.n (.ret c))
  | 0x75 => some (.n (.reti c))
  | 0x76 => some (.i8 (.bra c))
  | 0x77 => some (.i8 (.bsr c))
  | 0x80 => some (.rr (.cmp c))
  | 0x81 => some (.ri8 (.cmpi c))
  | 0x82 => some (.rr (.tst c))
  | 0x83 => some (.ri8 (.tsti c))
  | 0x84 => some (.rr (.cmpf c))
  | _ => none

/-- Reads the operand bytes of a pattern (30_encoding.md R85 to R97), checking every PAD bit (R98). -/
def Pattern.operands : Pattern → List Byte → Except DecodeError Instr
  | .n mk, [] => .ok mk
  | .rrr mk, [o1, o2] =>
    if loNibble o2 = 0#4 then .ok (mk (regOf (hiNibble o1)) (regOf (loNibble o1)) (regOf (hiNibble o2)))
    else .error .padNotZero
  | .rr mk, [o1, o2] =>
    if o2 = 0#8 then .ok (mk (regOf (hiNibble o1)) (regOf (loNibble o1))) else .error .padNotZero
  | .ri8 mk, [o1, o2] =>
    if loNibble o1 = 0#4 then .ok (mk (regOf (hiNibble o1)) o2) else .error .padNotZero
  | .ri16 mk, [o1, o2, o3, o4] =>
    if loNibble o1 = 0#4 ∧ o2 = 0#8 then .ok (mk (regOf (hiNibble o1)) (o3 ++ o4)) else .error .padNotZero
  | .m mk, [o1, o2] => .ok (mk (regOf (hiNibble o1)) (regOf (loNibble o1)) o2)
  | .j mk, [o1, o2, o3] => .ok (mk (o1 ++ o2 ++ o3))
  | .r mk, [o1, o2] =>
    if loNibble o1 = 0#4 ∧ o2 = 0#8 then .ok (mk (regOf (hiNibble o1))) else .error .padNotZero
  | .i8 mk, [o1, o2] => if o1 = 0#8 then .ok (mk o2) else .error .padNotZero
  | .rri8 mk, [o1, o2] => .ok (mk (regOf (hiNibble o1)) (regOf (loNibble o1)) o2)
  | .rri5 mk, [o1, o2] =>
    if o2.extractLsb' 5 3 = 0#3 then
      .ok (mk (regOf (hiNibble o1)) (regOf (loNibble o1)) (o2.extractLsb' 0 5))
    else .error .padNotZero
  | .i16 mk, [o1, o2, o3, o4] => if o1 = 0#8 ∧ o2 = 0#8 then .ok (mk (o3 ++ o4)) else .error .padNotZero
  | .ri32 mk, [o1, o2, o3, o4, o5, o6] =>
    if loNibble o1 = 0#4 ∧ o2 = 0#8 then .ok (mk (regOf (hiNibble o1)) (o3 ++ o4 ++ o5 ++ o6))
    else .error .padNotZero
  | _, _ => .error .truncated

/-- The header checks, in the order of 40_execution_cycle.md R132: FLAGS field, then opcode, both before the condition
is looked at. -/
def decodeHeader (b1 b2 : Byte) : Except DecodeError Pattern :=
  if flagsField b1 = 0#5 then
    match pattern (condOf (condBits b1)) b2 with
    | some p => .ok p
    | none => .error .reservedOpcode
  else .error .flagsFieldNotZero

/-- The decoder: the instruction at the head of a byte string and the bytes after it (30_encoding.md R101, R113). -/
def decode : List Byte → Except DecodeError (Instr × List Byte)
  | b1 :: b2 :: rest =>
    match decodeHeader b1 b2 with
    | .error e => .error e
    | .ok p =>
      if rest.length < p.layout.operandBytes then .error .truncated
      else
        match p.operands (rest.take p.layout.operandBytes) with
        | .error e => .error e
        | .ok i => .ok (i, rest.drop p.layout.operandBytes)
  | _ => .error .truncated

/-! ## The encoder -/

/-- The two header bytes, FLAGS field zero (30_encoding.md R80 to R83). -/
def headerBytes (c : Cond) (op : Byte) : List Byte := [c.code ++ 0#5, op]

/-- Bits 15-0 as two bytes, most significant first (20_memory.md R52). -/
def bytes16 (v : BitVec 16) : List Byte := [v.extractLsb' 8 8, v.extractLsb' 0 8]

/-- Bits 23-0 as three bytes, most significant first (20_memory.md R52, 30_encoding.md R91). -/
def bytes24 (v : BitVec 24) : List Byte := [v.extractLsb' 16 8, v.extractLsb' 8 8, v.extractLsb' 0 8]

/-- Bits 31-0 as four bytes, most significant first (20_memory.md R52, R53). -/
def bytes32 (v : BitVec 32) : List Byte :=
  [v.extractLsb' 24 8, v.extractLsb' 16 8, v.extractLsb' 8 8, v.extractLsb' 0 8]

/-- Two register fields in one byte, the first in bits 7-4. -/
def regPair (a b : Reg) : Byte := regBits a ++ regBits b

/-- One register field in bits 7-4, PAD below it. -/
def regPad (a : Reg) : Byte := regBits a ++ 0#4

/-- Operand bytes of layout RRR (30_encoding.md R86). -/
def bytesRRR (d a b : Reg) : List Byte := [regPair d a, regPad b]

/-- Operand bytes of layout RR (30_encoding.md R87). -/
def bytesRR (a b : Reg) : List Byte := [regPair a b, 0#8]

/-- Operand bytes of layout RI8 (30_encoding.md R88). -/
def bytesRI8 (r : Reg) (v : BitVec 8) : List Byte := [regPad r, v]

/-- Operand bytes of layout RI16 (30_encoding.md R89). -/
def bytesRI16 (r : Reg) (v : BitVec 16) : List Byte := regPad r :: 0#8 :: bytes16 v

/-- Operand bytes of layout M (30_encoding.md R90). -/
def bytesM (r b : Reg) (v : BitVec 8) : List Byte := [regPair r b, v]

/-- Operand bytes of layout J (30_encoding.md R91). -/
def bytesJ (v : BitVec 24) : List Byte := bytes24 v

/-- Operand bytes of layout R (30_encoding.md R92). -/
def bytesR (r : Reg) : List Byte := [regPad r, 0#8]

/-- Operand bytes of layout I8 (30_encoding.md R93). -/
def bytesI8 (v : BitVec 8) : List Byte := [0#8, v]

/-- Operand bytes of layout RRI8 (30_encoding.md R94). -/
def bytesRRI8 (d a : Reg) (v : BitVec 8) : List Byte := [regPair d a, v]

/-- Operand bytes of layout RRI5 (30_encoding.md R95). -/
def bytesRRI5 (d a : Reg) (v : BitVec 5) : List Byte := [regPair d a, 0#3 ++ v]

/-- Operand bytes of layout I16 (30_encoding.md R96). -/
def bytesI16 (v : BitVec 16) : List Byte := 0#8 :: 0#8 :: bytes16 v

/-- Operand bytes of layout RI32 (30_encoding.md R97). -/
def bytesRI32 (r : Reg) (v : BitVec 32) : List Byte := regPad r :: 0#8 :: bytes32 v

/-- The bytes of an instruction, in address order (30_encoding.md R101, R110). -/
def encode : Instr → List Byte
  | .halt c => headerBytes c 0x00#8
  | .syscall c => headerBytes c 0x01#8
  | .trap c v => headerBytes c 0x02#8 ++ bytesI8 v
  | .int c v => headerBytes c 0x03#8 ++ bytesI8 v
  | .iret c => headerBytes c 0x04#8
  | .mov c a b => headerBytes c 0x10#8 ++ bytesRR a b
  | .movi c r v => headerBytes c 0x11#8 ++ bytesRI16 r v
  | .limm c r v => headerBytes c 0x12#8 ++ bytesRI32 r v
  | .movhi c r v => headerBytes c 0x13#8 ++ bytesRI16 r v
  | .swap c a b => headerBytes c 0x14#8 ++ bytesRR a b
  | .lea c r b v => headerBytes c 0x15#8 ++ bytesM r b v
  | .add c d a b => headerBytes c 0x20#8 ++ bytesRRR d a b
  | .sub c d a b => headerBytes c 0x21#8 ++ bytesRRR d a b
  | .mul c d a b => headerBytes c 0x22#8 ++ bytesRRR d a b
  | .div c d a b => headerBytes c 0x23#8 ++ bytesRRR d a b
  | .mod c d a b => headerBytes c 0x24#8 ++ bytesRRR d a b
  | .divu c d a b => headerBytes c 0x25#8 ++ bytesRRR d a b
  | .modu c d a b => headerBytes c 0x26#8 ++ bytesRRR d a b
  | .inc c r => headerBytes c 0x27#8 ++ bytesR r
  | .dec c r => headerBytes c 0x28#8 ++ bytesR r
  | .neg c r => headerBytes c 0x29#8 ++ bytesR r
  | .abs c r => headerBytes c 0x2A#8 ++ bytesR r
  | .addi c d a v => headerBytes c 0x2B#8 ++ bytesRRI8 d a v
  | .subi c d a v => headerBytes c 0x2C#8 ++ bytesRRI8 d a v
  | .and c d a b => headerBytes c 0x30#8 ++ bytesRRR d a b
  | .or c d a b => headerBytes c 0x31#8 ++ bytesRRR d a b
  | .xor c d a b => headerBytes c 0x32#8 ++ bytesRRR d a b
  | .not c r => headerBytes c 0x33#8 ++ bytesR r
  | .andi c d a v => headerBytes c 0x34#8 ++ bytesRRI8 d a v
  | .ori c d a v => headerBytes c 0x35#8 ++ bytesRRI8 d a v
  | .xori c d a v => headerBytes c 0x36#8 ++ bytesRRI8 d a v
  | .shl c d a b => headerBytes c 0x40#8 ++ bytesRRR d a b
  | .shr c d a b => headerBytes c 0x41#8 ++ bytesRRR d a b
  | .sar c d a b => headerBytes c 0x42#8 ++ bytesRRR d a b
  | .rol c d a b => headerBytes c 0x43#8 ++ bytesRRR d a b
  | .ror c d a b => headerBytes c 0x44#8 ++ bytesRRR d a b
  | .shli c d a v => headerBytes c 0x45#8 ++ bytesRRI5 d a v
  | .shri c d a v => headerBytes c 0x46#8 ++ bytesRRI5 d a v
  | .sari c d a v => headerBytes c 0x47#8 ++ bytesRRI5 d a v
  | .load c r b v => headerBytes c 0x50#8 ++ bytesM r b v
  | .store c r b v => headerBytes c 0x51#8 ++ bytesM r b v
  | .loadb c r b v => headerBytes c 0x52#8 ++ bytesM r b v
  | .storeb c r b v => headerBytes c 0x53#8 ++ bytesM r b v
  | .loadh c r b v => headerBytes c 0x54#8 ++ bytesM r b v
  | .storeh c r b v => headerBytes c 0x55#8 ++ bytesM r b v
  | .loadsb c r b v => headerBytes c 0x56#8 ++ bytesM r b v
  | .loadsh c r b v => headerBytes c 0x57#8 ++ bytesM r b v
  | .push c r => headerBytes c 0x60#8 ++ bytesR r
  | .pop c r => headerBytes c 0x61#8 ++ bytesR r
  | .pushm c v => headerBytes c 0x62#8 ++ bytesI16 v
  | .popm c v => headerBytes c 0x63#8 ++ bytesI16 v
  | .enter c v => headerBytes c 0x64#8 ++ bytesI16 v
  | .leave c => headerBytes c 0x65#8
  | .alloca c r => headerBytes c 0x66#8 ++ bytesR r
  | .jmp c v => headerBytes c 0x70#8 ++ bytesJ v
  | .jmpr c r => headerBytes c 0x71#8 ++ bytesR r
  | .call c v => headerBytes c 0x72#8 ++ bytesJ v
  | .calli c r => headerBytes c 0x73#8 ++ bytesR r
  | .ret c => headerBytes c 0x74#8
  | .reti c => headerBytes c 0x75#8
  | .bra c v => headerBytes c 0x76#8 ++ bytesI8 v
  | .bsr c v => headerBytes c 0x77#8 ++ bytesI8 v
  | .cmp c a b => headerBytes c 0x80#8 ++ bytesRR a b
  | .cmpi c r v => headerBytes c 0x81#8 ++ bytesRI8 r v
  | .tst c a b => headerBytes c 0x82#8 ++ bytesRR a b
  | .tsti c r v => headerBytes c 0x83#8 ++ bytesRI8 r v
  | .cmpf c a b => headerBytes c 0x84#8 ++ bytesRR a b

/-! ## The opcode table's numbering -/

/-- The low `8 * n` bits of a number as `n` bytes, the most significant first: `I = B1 ++ B2 ++ …` of 30_encoding.md R101. -/
def bytesOfNumber : Nat → Nat → List Byte
  | 0, _ => []
  | n + 1, w => BitVec.ofNat 8 (w >>> (8 * n)) :: bytesOfNumber n w

/-- An instruction of the opcode table, given as the number R101 makes of it, as the eight bytes from its address on:
the bytes above its own are zero. -/
def tableBytes (nbits w : Nat) : List Byte :=
  (bytesOfNumber (nbits / 8) w ++ List.replicate 8 0#8).take 8

/-- The instruction that the decoder reads from a row of the opcode table. -/
def decodeTableWord (nbits w : Nat) : Option Instr :=
  match decode (tableBytes nbits w) with
  | .ok (i, _) => some i
  | .error _ => none

end Sys2Proof
end

