-- ==== Sys2Proof/Machine/Fetch.lean ====
section
/-! DEFINITION. Instruction fetch with its checks in the order of 40_execution_cycle.md R131 to R134 and R144. -/

namespace Sys2Proof.Machine

/-- `Fetch(addr)`: one instruction byte, from the memory that loads and stores access (20_memory.md R59, R69). -/
def State.fetchByte (s : State) (addr : Word) : Except Fault Byte :=
  if addr.toNat < s.memSize then .ok (s.mem.read addr.toNat) else .error (.fetchFault addr)

/-- Operand bytes at rising addresses; the first one outside memory is the fault (40_execution_cycle.md R133). -/
def State.fetchBytes (s : State) : Nat → Word → Except Fault (List Byte)
  | 0, _ => .ok []
  | n + 1, addr =>
    match s.fetchByte addr with
    | .error f => .error f
    | .ok b =>
      match s.fetchBytes n (addr + 1#32) with
      | .error f => .error f
      | .ok bs => .ok (b :: bs)

/-- The instruction at `pc`: header fetch, header checks, operand fetch, PAD check (40_execution_cycle.md R131 to
R134). -/
def State.fetch (s : State) : Except Fault Instr :=
  match s.fetchByte s.pc with
  | .error f => .error f
  | .ok b1 =>
    match s.fetchByte (s.pc + 1#32) with
    | .error f => .error f
    | .ok b2 =>
      match decodeHeader b1 b2 with
      | .error _ => .error (.illegalInstruction s.pc (b1 ++ b2) [])
      | .ok p =>
        match s.fetchBytes p.layout.operandBytes (s.pc + 2#32) with
        | .error f => .error f
        | .ok ops =>
          match p.operands ops with
          | .error _ => .error (.illegalInstruction s.pc (b1 ++ b2) ops)
          | .ok i => .ok i

end Sys2Proof.Machine
end

