-- ==== Sys2Proof/Machine/Step.lean ====
section
/-! DEFINITION. One step: the machine executes the instruction at `pc` (40_execution_cycle.md R130), or the environment
answers the event it was handed (60_exceptions.md R281). -/

namespace Sys2Proof.Machine

/-- One transition of a run (70_reset_and_hazards.md R316). A halted machine, and one whose run the environment has
ended, changes nothing any more (40_execution_cycle.md R138; log 12). -/
def step (s : State) : Host.Outcome State Fault Refusal :=
  match s.control with
  | .ended _ => .next s
  | .environment e => s.answer e
  | .machine =>
    if s.halted then .next s
    else
      match s.fetch with
      | .error f => .fault f
      | .ok i => exec i s

/-- Stores bytes from an address on, at the addresses that memory has. -/
def State.placeBytes : State → Word → List Byte → State
  | s, _, [] => s
  | s, a, b :: bs =>
    State.placeBytes (if a.toNat < s.memSize then s.setMem (s.mem.write a.toNat b) else s) (a + 1#32) bs

/-- The state with an instruction of the opcode table stored at `pc`, the machine ready to run it (log 6, log 19). -/
def State.withFetchWord (s : State) (nbits w : Nat) : State :=
  ((s.placeBytes s.pc (tableBytes nbits w)).setHalted false).setControl .machine

end Sys2Proof.Machine
end

