-- ==== Sys2Proof/Safety.lean ====
section
/-! DEFINITION. What counts as a well-formed state and as a safe run, in the terms the statements use. -/

namespace Sys2Proof.Machine

/-- The bounds of `MEM_SIZE` (00_scope.md R8). -/
def State.memSizeLegal (s : State) : Prop := 4 ≤ s.memSize ∧ s.memSize ≤ 2 ^ 32 ∧ s.memSize % 4 = 0

/-- A well-formed state: a legal memory size, memory in its canonical form and inside `[0, MEM_SIZE)` (20_memory.md
R50), and a machine that waits for the environment, or whose run it has ended, not halted (60_exceptions.md R284). -/
structure State.Inv (s : State) : Prop where
  memSizeLegal : s.memSizeLegal
  memCanonical : s.mem.wf = true
  memInside : s.mem.below s.memSize = true
  runState : s.control = .machine ∨ s.halted = false

/-- The machine is about to fetch (40_execution_cycle.md R130, R138). -/
def State.Running (s : State) : Prop := s.control = .machine ∧ s.halted = false

/-- The run has ended normally (70_reset_and_hazards.md R316): an executed HALT, or the environment ended it. -/
def State.Finished (s : State) : Prop := s.halted = true ∨ ∃ code, s.control = .ended code

/-- A step that does not make the run fail (60_exceptions.md R271). -/
def State.StepSafe (s : State) : Prop := ∀ f, step s ≠ .fault f

end Sys2Proof.Machine
end

