-- ==== Sys2Proof/Certificates/Slice0/Obligations.lean ====
section
/-! DEFINITION. The statements for the provers. Each says what a rule of spec/ says, in terms of exact integers, single
bits and single bytes of memory rather than of the model's own helper functions. A whole next state is written as the
old state with named one-field updates (`setReg`, `setFlags`, `setPc`, …), so whatever is not named is unchanged: that is
the instruction's frame. -/

open Sys2Proof Sys2Proof.Machine

/-! ## Terms the statements share -/

/-- The condition of an instruction holds in a state (40_execution_cycle.md R135). -/
def Sys2Proof.Statements.Holds (c : Cond) (s : State) : Prop := condHolds c s.flags = true

/-- Z and N of a result (40_execution_cycle.md R139). -/
def Sys2Proof.Statements.ZN (r : Word) (f : Flags) : Prop :=
  (f.z = true ↔ r = 0#32) ∧ (f.n = true ↔ r.toInt < 0)

/-- The flags of an instruction that is neither an addition nor a subtraction (40_execution_cycle.md R141). -/
def Sys2Proof.Statements.LogicFlagsOf (r : Word) (f : Flags) : Prop :=
  Statements.ZN r f ∧ f.c = false ∧ f.v = false

/-- The flags of an addition (40_execution_cycle.md R140). -/
def Sys2Proof.Statements.SumFlagsOf (a b : Word) (f : Flags) : Prop :=
  Statements.ZN (a + b) f ∧
  (f.c = true ↔ 2 ^ 32 ≤ a.toNat + b.toNat) ∧
  (f.v = true ↔ a.getLsbD 31 = b.getLsbD 31 ∧ (a + b).getLsbD 31 ≠ a.getLsbD 31) ∧
  (f.v = true ↔ ¬(-2 ^ 31 ≤ a.toInt + b.toInt ∧ a.toInt + b.toInt ≤ 2 ^ 31 - 1))

/-- The flags of a subtraction, and what they say of its operands (40_execution_cycle.md R140). -/
def Sys2Proof.Statements.DifferenceFlagsOf (a b : Word) (f : Flags) : Prop :=
  Statements.ZN (a - b) f ∧
  (f.c = true ↔ a.toNat < b.toNat) ∧
  (f.v = true ↔ a.getLsbD 31 ≠ b.getLsbD 31 ∧ (a - b).getLsbD 31 ≠ a.getLsbD 31) ∧
  (f.v = true ↔ ¬(-2 ^ 31 ≤ a.toInt - b.toInt ∧ a.toInt - b.toInt ≤ 2 ^ 31 - 1)) ∧
  (f.z = true ↔ a = b) ∧
  (f.n ≠ f.v ↔ a.toInt < b.toInt)

/-- A four-byte instruction completes, writing one register and all four flags and nothing else but `pc`. -/
def Sys2Proof.Statements.WritesResult (i : Instr) (s : State) (d : Reg) (r : Word) (P : Flags → Prop) : Prop :=
  ∃ f, P f ∧ exec i s = .next (((s.setReg d r).setFlags f).setPc (s.pc + 4#32))

/-- A four-byte instruction completes, writing all four flags and nothing else but `pc`. -/
def Sys2Proof.Statements.WritesFlags (i : Instr) (s : State) (P : Flags → Prop) : Prop :=
  ∃ f, P f ∧ exec i s = .next ((s.setFlags f).setPc (s.pc + 4#32))

/-- These bytes stand in memory from an address on. -/
def Sys2Proof.Statements.BytesAt (s : State) (a : Word) (bs : List Byte) : Prop :=
  ∀ k (h : k < bs.length),
    (a + BitVec.ofNat 32 k).toNat < s.memSize ∧ s.mem.read (a + BitVec.ofNat 32 k).toNat = bs[k]

/-- Four bytes of memory are a word, the byte at the lowest address most significant (20_memory.md R53). -/
def Sys2Proof.Statements.WordAt (m : Memory) (a : Nat) (v : Word) : Prop :=
  v.toNat = (m.read a).toNat * 2 ^ 24 + (m.read (a + 1)).toNat * 2 ^ 16 + (m.read (a + 2)).toNat * 2 ^ 8 +
    (m.read (a + 3)).toNat

/-- `new` is `old` with the low `n` bytes of a word stored at an address, the most significant of them first, and every
other byte unchanged (20_memory.md R58). -/
def Sys2Proof.Statements.Stored (old new : Memory) (a n : Nat) (v : Word) : Prop :=
  (∀ k, k < n → (new.read (a + k)).toNat = v.toNat / 2 ^ (8 * (n - 1 - k)) % 2 ^ 8) ∧
  ∀ q, q < a ∨ a + n ≤ q → new.read q = old.read q

/-- A word access at this address is aligned and inside memory (20_memory.md R57, R58). -/
def Sys2Proof.Statements.SlotOk (s : State) (a : Word) : Prop :=
  a.toNat % 4 = 0 ∧ a.toNat + 4 ≤ s.memSize

/-- The registers of a mask, each once, the highest-numbered first. -/
def Sys2Proof.Statements.DownFrom (mask : BitVec 16) (l : List Reg) : Prop :=
  l.Pairwise (fun a b => b < a) ∧ ∀ r : Reg, r ∈ l ↔ mask.getLsbD r.val = true

/-- The registers of a mask, each once, the lowest-numbered first. -/
def Sys2Proof.Statements.UpFrom (mask : BitVec 16) (l : List Reg) : Prop :=
  l.Pairwise (fun a b => a < b) ∧ ∀ r : Reg, r ∈ l ↔ mask.getLsbD r.val = true

/-- The slot of the `j`-th push of a PUSHM. -/
def Sys2Proof.Statements.pushSlot (s : State) (j : Nat) : Word := s.sp - BitVec.ofNat 32 (4 * (j + 1))

/-- The slot of the `j`-th pop of a POPM. -/
def Sys2Proof.Statements.popSlot (s : State) (j : Nat) : Word := s.sp + BitVec.ofNat 32 (4 * j)

/-- The opcode of an instruction: the second byte of its encoding (30_encoding.md R80, R83). -/
def Sys2Proof.Statements.opcode (i : Instr) : Nat := ((encode i).getD 1 0#8).toNat

/-- The reserved opcodes (30_encoding.md R111). -/
def Sys2Proof.Statements.Reserved (op : Nat) : Prop :=
  (0x05 ≤ op ∧ op ≤ 0x0F) ∨ (0x16 ≤ op ∧ op ≤ 0x1F) ∨ (0x2D ≤ op ∧ op ≤ 0x2F) ∨ (0x37 ≤ op ∧ op ≤ 0x3F) ∨
  (0x48 ≤ op ∧ op ≤ 0x4F) ∨ (0x58 ≤ op ∧ op ≤ 0x5F) ∨ (0x67 ≤ op ∧ op ≤ 0x6F) ∨ (0x78 ≤ op ∧ op ≤ 0x7F) ∨
  (0x85 ≤ op ∧ op ≤ 0xFF)

/-- The general registers an instruction may write (the destination operands of its rule; R15 of ENTER and LEAVE). -/
def Sys2Proof.Statements.MayWrite (i : Instr) (r : Reg) : Prop :=
  match i with
  | .mov _ d _ => r = d
  | .movi _ d _ => r = d
  | .limm _ d _ => r = d
  | .movhi _ d _ => r = d
  | .swap _ d e => r = d ∨ r = e
  | .lea _ d _ _ => r = d
  | .add _ d _ _ => r = d
  | .sub _ d _ _ => r = d
  | .mul _ d _ _ => r = d
  | .div _ d _ _ => r = d
  | .mod _ d _ _ => r = d
  | .divu _ d _ _ => r = d
  | .modu _ d _ _ => r = d
  | .inc _ d => r = d
  | .dec _ d => r = d
  | .neg _ d => r = d
  | .abs _ d => r = d
  | .addi _ d _ _ => r = d
  | .subi _ d _ _ => r = d
  | .and _ d _ _ => r = d
  | .or _ d _ _ => r = d
  | .xor _ d _ _ => r = d
  | .not _ d => r = d
  | .andi _ d _ _ => r = d
  | .ori _ d _ _ => r = d
  | .xori _ d _ _ => r = d
  | .shl _ d _ _ => r = d
  | .shr _ d _ _ => r = d
  | .sar _ d _ _ => r = d
  | .rol _ d _ _ => r = d
  | .ror _ d _ _ => r = d
  | .shli _ d _ _ => r = d
  | .shri _ d _ _ => r = d
  | .sari _ d _ _ => r = d
  | .load _ d _ _ => r = d
  | .loadb _ d _ _ => r = d
  | .loadh _ d _ _ => r = d
  | .loadsb _ d _ _ => r = d
  | .loadsh _ d _ _ => r = d
  | .pop _ d => r = d
  | .popm _ m => m.getLsbD r.val = true
  | .enter _ _ => r = 15
  | .leave _ => r = 15
  | _ => False

/-! ## Encoding -/

/-- 30_encoding.md R101, R110: every instruction, with every operand, is read back from its own bytes, whatever follows
them. -/
def Obligations.DecodeInvertsEncode : Prop :=
  ∀ (i : Instr) (rest : List Byte), decode (encode i ++ rest) = .ok (i, rest)

/-- 30_encoding.md R98, R101: the decoder drops no bit; what it accepts are exactly the bytes of the instruction it
reads. -/
def Obligations.EncodeInvertsDecode : Prop :=
  ∀ (bs : List Byte) (i : Instr) (rest : List Byte), decode bs = .ok (i, rest) → bs = encode i ++ rest

/-- 30_encoding.md R101, R112: a byte string is one instruction exactly when a row of the opcode map recognises it. -/
def Obligations.DecodeAcceptsExactlyLegalEncodings : Prop :=
  ∀ bs : List Byte, (∃ i, decode bs = .ok (i, [])) ↔ wellFormedBytes bs = true

/-- Examples of 95_test_vectors.md, one or more of every family. -/
def Obligations.WrittenEncodingsDecode : Prop :=
  decode [0x00, 0x02, 0x00, 0x03] = .ok (.trap .always 3#8, []) ∧
  decode [0xA0, 0x10, 0x12, 0x00] = .ok (.mov .eq 1 2, []) ∧
  decode [0x00, 0x12, 0x20, 0x00, 0x12, 0x34, 0x56, 0x78] = .ok (.limm .always 2 0x12345678#32, []) ∧
  decode [0xC0, 0x20, 0x31, 0x20] = .ok (.add .lt 3 1 2, []) ∧
  decode [0x00, 0x34, 0x12, 0x0F] = .ok (.andi .always 1 2 0x0F#8, []) ∧
  decode [0x00, 0x45, 0x12, 0x04] = .ok (.shli .always 1 2 4#5, []) ∧
  decode [0x00, 0x50, 0x15, 0x0C] = .ok (.load .always 1 5 0x0C#8, []) ∧
  decode [0x00, 0x62, 0x00, 0x00, 0x80, 0x06] = .ok (.pushm .always 0x8006#16, []) ∧
  decode [0x20, 0x70, 0x00, 0x00, 0x0C] = .ok (.jmp .ne 0x00000C#24, []) ∧
  decode [0x00, 0x81, 0x10, 0x05] = .ok (.cmpi .always 1 5#8, []) ∧
  decode [0x80, 0x00] = .ok (.halt .never, [])

/-! ## The step -/

/-- 40_execution_cycle.md R130: a running machine whose bytes at `pc` decode to an instruction does what `exec` says of
it and nothing around it. -/
def Obligations.StepRunsDecodedInstruction : Prop :=
  ∀ (s : State) (bs : List Byte) (i : Instr),
    s.Running → decode bs = .ok (i, []) → Statements.BytesAt s s.pc bs → step s = exec i s

/-- 20_memory.md R59. -/
def Obligations.FetchReadsMemoryOrFaults : Prop :=
  ∀ (s : State) (addr : Word),
    (s.memSize ≤ addr.toNat → s.fetchByte addr = .error (.fetchFault addr)) ∧
    (addr.toNat < s.memSize → s.fetchByte addr = .ok (s.mem.read addr.toNat)) ∧
    ∀ (a : Word) (w : Width) (v : Word) (t : State), s.memWrite a w v = .ok t →
      ∀ k, k < w.bytes → ∃ b : Byte, t.fetchByte (a + BitVec.ofNat 32 k) = .ok b ∧
        b.toNat = v.toNat / 2 ^ (8 * (w.bytes - 1 - k)) % 2 ^ 8

/-- 40_execution_cycle.md R131, R144: the header bytes are fetched first, Byte 1 before Byte 2. -/
def Obligations.HeaderFetchFaults : Prop :=
  ∀ s : State, s.Running →
    (s.memSize ≤ s.pc.toNat → step s = .fault (.fetchFault s.pc)) ∧
    (s.pc.toNat < s.memSize → s.memSize ≤ (s.pc + 1#32).toNat → step s = .fault (.fetchFault (s.pc + 1#32)))

/-- 40_execution_cycle.md R132: both header checks, whatever the condition bits of Byte 1 are and whatever follows. -/
def Obligations.HeaderChecksFault : Prop :=
  ∀ (s : State) (b1 b2 : Byte), s.Running → Statements.BytesAt s s.pc [b1, b2] →
    (b1.toNat % 32 ≠ 0 → step s = .fault (.illegalInstruction s.pc (b1 ++ b2) [])) ∧
    (b1.toNat % 32 = 0 → Statements.Reserved b2.toNat →
      step s = .fault (.illegalInstruction s.pc (b1 ++ b2) []))

/-- 40_execution_cycle.md R133: the first operand byte outside memory is the fault, whatever the condition. -/
def Obligations.OperandFetchFaults : Prop :=
  ∀ (s : State) (b1 b2 : Byte) (l : Layout) (k : Nat), s.Running → Statements.BytesAt s s.pc [b1, b2] →
    b1.toNat % 32 = 0 → layoutOf b2 = some l → k < l.operandBytes →
    (∀ j, j < k → (s.pc + BitVec.ofNat 32 (2 + j)).toNat < s.memSize) →
    s.memSize ≤ (s.pc + BitVec.ofNat 32 (2 + k)).toNat →
    step s = .fault (.fetchFault (s.pc + BitVec.ofNat 32 (2 + k)))

/-- 40_execution_cycle.md R134, 60_exceptions.md R272: a nonzero PAD bit, whatever the condition. That the record holds
the operand bytes beside the header is the model's reading (log 13). -/
def Obligations.PadBitFaults : Prop :=
  ∀ (s : State) (b1 b2 : Byte) (ops : List Byte) (l : Layout), s.Running →
    Statements.BytesAt s s.pc (b1 :: b2 :: ops) → b1.toNat % 32 = 0 → layoutOf b2 = some l →
    ops.length = l.operandBytes → wellFormedBytes (b1 :: b2 :: ops) = false →
    step s = .fault (.illegalInstruction s.pc (b1 ++ b2) ops)

/-- 40_execution_cycle.md R138, 60_exceptions.md R286: after HALT, or once the environment has ended the run, no state
changes. That the model's step then answers the same state is its own convention (log 12). -/
def Obligations.FinishedRunChangesNothing : Prop :=
  ∀ s : State, (s.control = .machine ∧ s.halted = true) ∨ (∃ code, s.control = .ended code) → step s = .next s

/-- 40_execution_cycle.md R136, 10_state.md R25: an instruction whose condition is false changes `pc` alone, by its
length. -/
def Obligations.SkippedInstructionOnlyAdvancesPc : Prop :=
  ∀ (i : Instr) (s : State), condHolds i.cond s.flags = false →
    exec i s = .next (s.setPc (s.pc + BitVec.ofNat 32 (encode i).length))

/-- 40_execution_cycle.md R135: the formula, the eight rows of the table, that C is never read, and what the conditions
mean after CMP. -/
def Obligations.ConditionTest : Prop :=
  (∀ (c : Cond) (f : Flags),
    (condHolds c f = true ↔
      (((c.code.getLsbD 0 = false ∨ f.z = false) ∧ (c.code.getLsbD 1 = false ∨ f.n = f.v)) ↔
        c.code.getLsbD 2 = false))) ∧
  (∀ f : Flags,
    condHolds .always f = true ∧
    (condHolds .ne f = true ↔ f.z = false) ∧
    (condHolds .ge f = true ↔ f.n = f.v) ∧
    (condHolds .gt f = true ↔ f.z = false ∧ f.n = f.v) ∧
    condHolds .never f = false ∧
    (condHolds .eq f = true ↔ f.z = true) ∧
    (condHolds .lt f = true ↔ f.n ≠ f.v) ∧
    (condHolds .le f = true ↔ f.z = true ∨ f.n ≠ f.v)) ∧
  (∀ (c : Cond) (z n v x y : Bool),
    condHolds c { z := z, n := n, c := x, v := v } = condHolds c { z := z, n := n, c := y, v := v }) ∧
  (∀ (c : Cond) (r q : Reg) (s t : State), Statements.Holds c s → exec (.cmp c r q) s = .next t →
    (Statements.Holds .eq t ↔ s.reg r = s.reg q) ∧
    (Statements.Holds .ne t ↔ s.reg r ≠ s.reg q) ∧
    (Statements.Holds .lt t ↔ (s.reg r).toInt < (s.reg q).toInt) ∧
    (Statements.Holds .ge t ↔ (s.reg q).toInt ≤ (s.reg r).toInt) ∧
    (Statements.Holds .gt t ↔ (s.reg q).toInt < (s.reg r).toInt) ∧
    (Statements.Holds .le t ↔ (s.reg r).toInt ≤ (s.reg q).toInt))

/-- 40_execution_cycle.md R142. -/
def Obligations.NeverIsNoOperation : Prop :=
  (∀ (s : State) (bs : List Byte) (i : Instr), s.Running → decode bs = .ok (i, []) → bs.head? = some 0x80#8 →
    Statements.BytesAt s s.pc bs → step s = .next (s.setPc (s.pc + BitVec.ofNat 32 bs.length))) ∧
  encode (.halt .never) = [0x80#8, 0x00#8]

/-! ## System -/

/-- 41_system.md R150. -/
def Obligations.HaltSetsHalted : Prop :=
  ∀ (c : Cond) (s : State), Statements.Holds c s →
    exec (.halt c) s = .next ((s.setHalted true).setPc (s.pc + 2#32))

/-- 41_system.md R151 to R154, 48_control_flow.md R250, 60_exceptions.md R281: the five event instructions complete,
advance `pc` and hand their event over; nothing else changes. That the delivered event stands in the field `control` is
the model's convention (log 7). -/
def Obligations.EventInstructionsDeliver : Prop :=
  ∀ (c : Cond) (imm : BitVec 8) (s : State), Statements.Holds c s →
    exec (.syscall c) s = .next ((s.setPc (s.pc + 2#32)).setControl
      (.environment (.sysCall (s.reg 0) (s.reg 1) (s.reg 2) (s.reg 3) (s.reg 4) (s.reg 5)))) ∧
    (∃ n : Word, n.toNat = imm.toNat ∧
      exec (.trap c imm) s = .next ((s.setPc (s.pc + 4#32)).setControl (.environment (.trap n))) ∧
      exec (.int c imm) s = .next ((s.setPc (s.pc + 4#32)).setControl (.environment (.softInt n)))) ∧
    exec (.iret c) s = .next ((s.setPc (s.pc + 2#32)).setControl (.environment .intReturn)) ∧
    exec (.reti c) s = .next ((s.setPc (s.pc + 2#32)).setControl (.environment .intReturn))

/-! ## Data movement -/

/-- 42_data_movement.md R160 to R165: the six results; no flag, no memory and no other register changes. -/
def Obligations.DataMovementResults : Prop :=
  ∀ (c : Cond) (d e : Reg) (imm : BitVec 16) (off : BitVec 8) (w : Word) (s : State), Statements.Holds c s →
    exec (.mov c d e) s = .next ((s.setReg d (s.reg e)).setPc (s.pc + 4#32)) ∧
    (∃ v : Word, v.toInt = imm.toInt ∧ exec (.movi c d imm) s = .next ((s.setReg d v).setPc (s.pc + 6#32))) ∧
    exec (.limm c d w) s = .next ((s.setReg d w).setPc (s.pc + 8#32)) ∧
    (∃ v : Word, v.toNat = imm.toNat * 2 ^ 16 + (s.reg d).toNat % 2 ^ 16 ∧
      exec (.movhi c d imm) s = .next ((s.setReg d v).setPc (s.pc + 6#32))) ∧
    (∃ t : State, exec (.swap c d e) s = .next t ∧ t = (s.setRegs t.regs).setPc (s.pc + 4#32) ∧
      t.reg d = s.reg e ∧ t.reg e = s.reg d ∧ ∀ r, r ≠ d → r ≠ e → t.reg r = s.reg r) ∧
    (∃ v : Word, (v.toNat : Int) = ((s.reg e).toNat + off.toInt) % 2 ^ 32 ∧
      exec (.lea c d e off) s = .next ((s.setReg d v).setPc (s.pc + 4#32)))

/-- 42_data_movement.md R163: MOVI of the low half and then MOVHI of the high half build any 32-bit constant. -/
def Obligations.MoviThenMovhiBuildsConstant : Prop :=
  ∀ (c c' : Cond) (d : Reg) (w : Word) (s : State), Statements.Holds c s → Statements.Holds c' s →
    ∃ t, exec (.movi c d (w.extractLsb' 0 16)) s = .next t ∧
      exec (.movhi c' d (w.extractLsb' 16 16)) t = .next ((s.setReg d w).setPc (s.pc + 12#32))

/-! ## Arithmetic -/

/-- 40_execution_cycle.md R140: `AddFlags` for ADD, ADDI and INC, `SubFlags` for SUB, SUBI, DEC, NEG, CMP and CMPI. -/
def Obligations.AdditionAndSubtractionFlags : Prop :=
  ∀ (c : Cond) (d x y : Reg) (imm : BitVec 8) (s : State), Statements.Holds c s →
    Statements.WritesResult (.add c d x y) s d (s.reg x + s.reg y)
      (Statements.SumFlagsOf (s.reg x) (s.reg y)) ∧
    Statements.WritesResult (.addi c d x imm) s d (s.reg x + BitVec.ofNat 32 imm.toNat)
      (Statements.SumFlagsOf (s.reg x) (BitVec.ofNat 32 imm.toNat)) ∧
    Statements.WritesResult (.inc c d) s d (s.reg d + 1#32) (Statements.SumFlagsOf (s.reg d) 1#32) ∧
    Statements.WritesResult (.sub c d x y) s d (s.reg x - s.reg y)
      (Statements.DifferenceFlagsOf (s.reg x) (s.reg y)) ∧
    Statements.WritesResult (.subi c d x imm) s d (s.reg x - BitVec.ofNat 32 imm.toNat)
      (Statements.DifferenceFlagsOf (s.reg x) (BitVec.ofNat 32 imm.toNat)) ∧
    Statements.WritesResult (.dec c d) s d (s.reg d - 1#32) (Statements.DifferenceFlagsOf (s.reg d) 1#32) ∧
    Statements.WritesResult (.neg c d) s d (0#32 - s.reg d) (Statements.DifferenceFlagsOf 0#32 (s.reg d)) ∧
    Statements.WritesFlags (.cmp c x y) s (Statements.DifferenceFlagsOf (s.reg x) (s.reg y)) ∧
    Statements.WritesFlags (.cmpi c x imm) s
      (Statements.DifferenceFlagsOf (s.reg x) (BitVec.ofNat 32 imm.toNat))

/-- 43_arithmetic.md R174: the low 32 bits of the product, read as unsigned or as signed. -/
def Obligations.MultiplyResult : Prop :=
  ∀ (c : Cond) (d x y : Reg) (s : State), Statements.Holds c s →
    ∃ r : Word, r.toNat = (s.reg x).toNat * (s.reg y).toNat % 2 ^ 32 ∧
      r.toInt = ((s.reg x).toInt * (s.reg y).toInt).bmod (2 ^ 32) ∧
      Statements.WritesResult (.mul c d x y) s d r (Statements.LogicFlagsOf r)

/-- 43_arithmetic.md R173: both divisions, their remainders, and the divisions without a quotient. -/
def Obligations.DivisionRule : Prop :=
  ∀ (c : Cond) (d x y : Reg) (s : State), Statements.Holds c s →
    (s.reg y = 0#32 →
      exec (.div c d x y) s = .fault (.divideError s.pc) ∧ exec (.mod c d x y) s = .fault (.divideError s.pc) ∧
      exec (.divu c d x y) s = .fault (.divideError s.pc) ∧
      exec (.modu c d x y) s = .fault (.divideError s.pc)) ∧
    (s.reg x = 0x80000000#32 → s.reg y = 0xFFFFFFFF#32 →
      exec (.div c d x y) s = .fault (.divideError s.pc) ∧
      exec (.mod c d x y) s = .fault (.divideError s.pc)) ∧
    (s.reg y ≠ 0#32 → ¬(s.reg x = 0x80000000#32 ∧ s.reg y = 0xFFFFFFFF#32) →
      ∃ q r : Word, q.toInt = (s.reg x).toInt.tdiv (s.reg y).toInt ∧
        (s.reg x).toInt = q.toInt * (s.reg y).toInt + r.toInt ∧
        r.toInt.natAbs < (s.reg y).toInt.natAbs ∧
        (r.toInt = 0 ∨ (r.toInt < 0 ↔ (s.reg x).toInt < 0)) ∧
        Statements.WritesResult (.div c d x y) s d q (Statements.LogicFlagsOf q) ∧
        Statements.WritesResult (.mod c d x y) s d r (Statements.LogicFlagsOf r)) ∧
    (s.reg y ≠ 0#32 →
      ∃ q r : Word, (s.reg x).toNat = q.toNat * (s.reg y).toNat + r.toNat ∧ r.toNat < (s.reg y).toNat ∧
        Statements.WritesResult (.divu c d x y) s d q (Statements.LogicFlagsOf q) ∧
        Statements.WritesResult (.modu c d x y) s d r (Statements.LogicFlagsOf r))

/-- 43_arithmetic.md R182: the absolute value as an unsigned number, and V for the one value that does not fit. -/
def Obligations.AbsoluteValueResult : Prop :=
  ∀ (c : Cond) (d : Reg) (s : State), Statements.Holds c s →
    ∃ r : Word, r.toNat = (s.reg d).toInt.natAbs ∧
      Statements.WritesResult (.abs c d) s d r
        (fun f => Statements.ZN r f ∧ f.c = false ∧ (f.v = true ↔ s.reg d = 0x80000000#32))

/-! ## Logical -/

/-- 44_logical.md R190 to R197: bit by bit; a bit an immediate does not have reads as 0. -/
def Obligations.LogicalResults : Prop :=
  ∀ (c : Cond) (d x y : Reg) (imm : BitVec 8) (s : State), Statements.Holds c s →
    (∃ r : Word, (∀ k, r.getLsbD k = ((s.reg x).getLsbD k && (s.reg y).getLsbD k)) ∧
      Statements.WritesResult (.and c d x y) s d r (Statements.LogicFlagsOf r)) ∧
    (∃ r : Word, (∀ k, r.getLsbD k = ((s.reg x).getLsbD k || (s.reg y).getLsbD k)) ∧
      Statements.WritesResult (.or c d x y) s d r (Statements.LogicFlagsOf r)) ∧
    (∃ r : Word, (∀ k, r.getLsbD k = ((s.reg x).getLsbD k ^^ (s.reg y).getLsbD k)) ∧
      Statements.WritesResult (.xor c d x y) s d r (Statements.LogicFlagsOf r)) ∧
    (∃ r : Word, (∀ k, k < 32 → r.getLsbD k = !(s.reg d).getLsbD k) ∧
      Statements.WritesResult (.not c d) s d r (Statements.LogicFlagsOf r)) ∧
    (∃ r : Word, (∀ k, r.getLsbD k = ((s.reg x).getLsbD k && imm.getLsbD k)) ∧ r.toNat ≤ 0xFF ∧
      Statements.WritesResult (.andi c d x imm) s d r (fun f => Statements.LogicFlagsOf r f ∧ f.n = false)) ∧
    (∃ r : Word, (∀ k, r.getLsbD k = ((s.reg x).getLsbD k || imm.getLsbD k)) ∧
      Statements.WritesResult (.ori c d x imm) s d r (Statements.LogicFlagsOf r)) ∧
    (∃ r : Word, (∀ k, r.getLsbD k = ((s.reg x).getLsbD k ^^ imm.getLsbD k)) ∧
      Statements.WritesResult (.xori c d x imm) s d r (Statements.LogicFlagsOf r))

/-! ## Shift -/

/-- 45_shift.md R200 to R208: register counts modulo 32, immediate counts as they are; left shift multiplies, logical
right shift divides the unsigned value, arithmetic right shift divides the signed value toward minus infinity, and
rotations move every bit. -/
def Obligations.ShiftResults : Prop :=
  ∀ (c : Cond) (d x y : Reg) (imm : BitVec 5) (s : State), Statements.Holds c s →
    (∃ r : Word, r.toNat = (s.reg x).toNat * 2 ^ ((s.reg y).toNat % 32) % 2 ^ 32 ∧
      Statements.WritesResult (.shl c d x y) s d r (Statements.LogicFlagsOf r)) ∧
    (∃ r : Word, r.toNat = (s.reg x).toNat / 2 ^ ((s.reg y).toNat % 32) ∧
      Statements.WritesResult (.shr c d x y) s d r (Statements.LogicFlagsOf r)) ∧
    (∃ r : Word, r.toInt = (s.reg x).toInt / 2 ^ ((s.reg y).toNat % 32) ∧
      Statements.WritesResult (.sar c d x y) s d r (Statements.LogicFlagsOf r)) ∧
    (∃ r : Word, (∀ k, k < 32 → r.getLsbD ((k + (s.reg y).toNat) % 32) = (s.reg x).getLsbD k) ∧
      Statements.WritesResult (.rol c d x y) s d r (Statements.LogicFlagsOf r)) ∧
    (∃ r : Word, (∀ k, k < 32 → r.getLsbD k = (s.reg x).getLsbD ((k + (s.reg y).toNat) % 32)) ∧
      Statements.WritesResult (.ror c d x y) s d r (Statements.LogicFlagsOf r)) ∧
    (∃ r : Word, r.toNat = (s.reg x).toNat * 2 ^ imm.toNat % 2 ^ 32 ∧
      Statements.WritesResult (.shli c d x imm) s d r (Statements.LogicFlagsOf r)) ∧
    (∃ r : Word, r.toNat = (s.reg x).toNat / 2 ^ imm.toNat ∧
      Statements.WritesResult (.shri c d x imm) s d r (Statements.LogicFlagsOf r)) ∧
    (∃ r : Word, r.toInt = (s.reg x).toInt / 2 ^ imm.toNat ∧
      Statements.WritesResult (.sari c d x imm) s d r (Statements.LogicFlagsOf r))

/-! ## Memory -/

/-- 20_memory.md R57: the two faults in their order, else the bytes, the one at the lowest address most significant. -/
def Obligations.MemReadRule : Prop :=
  ∀ (s : State) (addr : Word) (w : Width),
    (addr.toNat % w.bytes ≠ 0 → s.memRead addr w = .error (.alignmentFault addr)) ∧
    (addr.toNat % w.bytes = 0 → s.memSize < addr.toNat + w.bytes →
      s.memRead addr w = .error (.memoryFault addr w.bytes .read)) ∧
    (addr.toNat % w.bytes = 0 → addr.toNat + w.bytes ≤ s.memSize →
      ∃ v : Word, s.memRead addr w = .ok v ∧ v.toNat < 2 ^ (8 * w.bytes) ∧
        ∀ k, k < w.bytes →
          v.toNat / 2 ^ (8 * (w.bytes - 1 - k)) % 2 ^ 8 = (s.mem.read (addr.toNat + k)).toNat)

/-- 20_memory.md R58: the two faults in their order, else the low bytes stored and every other byte unchanged. -/
def Obligations.MemWriteRule : Prop :=
  ∀ (s : State) (addr : Word) (w : Width) (v : Word),
    (addr.toNat % w.bytes ≠ 0 → s.memWrite addr w v = .error (.alignmentFault addr)) ∧
    (addr.toNat % w.bytes = 0 → s.memSize < addr.toNat + w.bytes →
      s.memWrite addr w v = .error (.memoryFault addr w.bytes .write)) ∧
    (addr.toNat % w.bytes = 0 → addr.toNat + w.bytes ≤ s.memSize →
      ∃ m : Memory, s.memWrite addr w v = .ok (s.setMem m) ∧ Statements.Stored s.mem m addr.toNat w.bytes v)

/-- 20_memory.md R54: what narrow reads see of a word that was stored. -/
def Obligations.NarrowReadsOfStoredWord : Prop :=
  ∀ (s t : State) (a v : Word), s.memWrite a .word v = .ok t →
    t.memRead a .word = .ok v ∧
    (∀ k, k < 4 → ∃ b : Word, t.memRead (a + BitVec.ofNat 32 k) .byte = .ok b ∧
      b.toNat = v.toNat / 2 ^ (8 * (3 - k)) % 2 ^ 8) ∧
    (∃ h : Word, t.memRead a .half = .ok h ∧ h.toNat = v.toNat / 2 ^ 16) ∧
    (∃ h : Word, t.memRead (a + 2#32) .half = .ok h ∧ h.toNat = v.toNat % 2 ^ 16)

/-- 46_memory_ops.md R215, R216, R218, R220, R222, R223: the five loads where they complete. -/
def Obligations.LoadResults : Prop :=
  ∀ (c : Cond) (d b : Reg) (off : BitVec 8) (s : State) (ea : Word), Statements.Holds c s →
    ea = s.reg b + off.signExtend 32 →
    (ea.toNat % 4 = 0 → ea.toNat + 4 ≤ s.memSize → ∃ v : Word, Statements.WordAt s.mem ea.toNat v ∧
      exec (.load c d b off) s = .next ((s.setReg d v).setPc (s.pc + 4#32))) ∧
    (ea.toNat + 1 ≤ s.memSize → ∃ v : Word, v.toNat = (s.mem.read ea.toNat).toNat ∧
      exec (.loadb c d b off) s = .next ((s.setReg d v).setPc (s.pc + 4#32))) ∧
    (ea.toNat + 1 ≤ s.memSize → ∃ v : Word, v.toInt = (s.mem.read ea.toNat).toInt ∧
      exec (.loadsb c d b off) s = .next ((s.setReg d v).setPc (s.pc + 4#32))) ∧
    (ea.toNat % 2 = 0 → ea.toNat + 2 ≤ s.memSize →
      ∃ v : Word, v.toNat = (s.mem.read ea.toNat).toNat * 2 ^ 8 + (s.mem.read (ea.toNat + 1)).toNat ∧
        exec (.loadh c d b off) s = .next ((s.setReg d v).setPc (s.pc + 4#32))) ∧
    (ea.toNat % 2 = 0 → ea.toNat + 2 ≤ s.memSize →
      ∃ v : Word, v.toInt = (s.mem.read ea.toNat).toInt * 2 ^ 8 + (s.mem.read (ea.toNat + 1)).toNat ∧
        exec (.loadsh c d b off) s = .next ((s.setReg d v).setPc (s.pc + 4#32)))

/-- 46_memory_ops.md R215, R217, R219, R221: the three stores where they complete; every byte outside the stored ones is
unchanged. -/
def Obligations.StoreResults : Prop :=
  ∀ (c : Cond) (r b : Reg) (off : BitVec 8) (s : State) (ea : Word), Statements.Holds c s →
    ea = s.reg b + off.signExtend 32 →
    (ea.toNat % 4 = 0 → ea.toNat + 4 ≤ s.memSize →
      ∃ m : Memory, Statements.Stored s.mem m ea.toNat 4 (s.reg r) ∧
        exec (.store c r b off) s = .next ((s.setMem m).setPc (s.pc + 4#32))) ∧
    (ea.toNat % 2 = 0 → ea.toNat + 2 ≤ s.memSize →
      ∃ m : Memory, Statements.Stored s.mem m ea.toNat 2 (s.reg r) ∧
        exec (.storeh c r b off) s = .next ((s.setMem m).setPc (s.pc + 4#32))) ∧
    (ea.toNat + 1 ≤ s.memSize →
      ∃ m : Memory, Statements.Stored s.mem m ea.toNat 1 (s.reg r) ∧
        exec (.storeb c r b off) s = .next ((s.setMem m).setPc (s.pc + 4#32)))

/-- 46_memory_ops.md R216 to R223, 60_exceptions.md R274, R275: where loads and stores fault, alignment before range. -/
def Obligations.LoadStoreFaults : Prop :=
  ∀ (c : Cond) (r b : Reg) (off : BitVec 8) (s : State) (ea : Word), Statements.Holds c s →
    ea = s.reg b + off.signExtend 32 →
    (ea.toNat % 4 ≠ 0 →
      exec (.load c r b off) s = .fault (.alignmentFault ea) ∧
      exec (.store c r b off) s = .fault (.alignmentFault ea)) ∧
    (ea.toNat % 4 = 0 → s.memSize < ea.toNat + 4 →
      exec (.load c r b off) s = .fault (.memoryFault ea 4 .read) ∧
      exec (.store c r b off) s = .fault (.memoryFault ea 4 .write)) ∧
    (ea.toNat % 2 ≠ 0 →
      exec (.loadh c r b off) s = .fault (.alignmentFault ea) ∧
      exec (.loadsh c r b off) s = .fault (.alignmentFault ea) ∧
      exec (.storeh c r b off) s = .fault (.alignmentFault ea)) ∧
    (ea.toNat % 2 = 0 → s.memSize < ea.toNat + 2 →
      exec (.loadh c r b off) s = .fault (.memoryFault ea 2 .read) ∧
      exec (.loadsh c r b off) s = .fault (.memoryFault ea 2 .read) ∧
      exec (.storeh c r b off) s = .fault (.memoryFault ea 2 .write)) ∧
    (s.memSize < ea.toNat + 1 →
      exec (.loadb c r b off) s = .fault (.memoryFault ea 1 .read) ∧
      exec (.loadsb c r b off) s = .fault (.memoryFault ea 1 .read) ∧
      exec (.storeb c r b off) s = .fault (.memoryFault ea 1 .write))

/-! ## Stack -/

/-- 20_memory.md R61, R62: the stack primitives, their faults, and the pop of the empty stack. -/
def Obligations.PushAndPopRules : Prop :=
  (∀ (s : State) (v : Word),
    ((s.sp - 4#32).toNat % 4 ≠ 0 → s.push v = .error (.alignmentFault (s.sp - 4#32))) ∧
    ((s.sp - 4#32).toNat % 4 = 0 → s.memSize < (s.sp - 4#32).toNat + 4 →
      s.push v = .error (.memoryFault (s.sp - 4#32) 4 .write)) ∧
    (Statements.SlotOk s (s.sp - 4#32) → ∃ m : Memory,
      Statements.Stored s.mem m (s.sp - 4#32).toNat 4 v ∧ s.push v = .ok ((s.setMem m).setSp (s.sp - 4#32)))) ∧
  ∀ s : State,
    (s.sp.toNat % 4 ≠ 0 → s.pop = .error (.alignmentFault s.sp)) ∧
    (s.sp.toNat % 4 = 0 → s.memSize < s.sp.toNat + 4 → s.pop = .error (.memoryFault s.sp 4 .read)) ∧
    (Statements.SlotOk s s.sp → ∃ v : Word,
      Statements.WordAt s.mem s.sp.toNat v ∧ s.pop = .ok (v, s.setSp (s.sp + 4#32))) ∧
    (s.memSizeLegal → s.sp = BitVec.ofNat 32 s.memSize → s.memSize < 2 ^ 32 →
      s.pop = .error (.memoryFault s.sp 4 .read)) ∧
    (s.memSize = 2 ^ 32 → s.sp = BitVec.ofNat 32 s.memSize → ∃ v : Word,
      s.sp = 0#32 ∧ Statements.WordAt s.mem 0 v ∧ s.pop = .ok (v, s.setSp 4#32))

/-- 47_stack.md R230, R231: PUSH and POP where they complete. -/
def Obligations.PushPopResults : Prop :=
  ∀ (c : Cond) (r : Reg) (s : State), Statements.Holds c s →
    (Statements.SlotOk s (s.sp - 4#32) → ∃ m : Memory,
      Statements.Stored s.mem m (s.sp - 4#32).toNat 4 (s.reg r) ∧
      exec (.push c r) s = .next (((s.setMem m).setSp (s.sp - 4#32)).setPc (s.pc + 4#32))) ∧
    (Statements.SlotOk s s.sp → ∃ v : Word, Statements.WordAt s.mem s.sp.toNat v ∧
      exec (.pop c r) s = .next (((s.setSp (s.sp + 4#32)).setReg r v).setPc (s.pc + 4#32)))

/-- 47_stack.md R232: the registers of the mask from the highest to the lowest, each in the next slot down; every byte
outside the slots is unchanged. -/
def Obligations.PushmResult : Prop :=
  ∀ (c : Cond) (mask : BitVec 16) (l : List Reg) (s : State), Statements.Holds c s → Statements.DownFrom mask l →
    (∀ j, j < l.length → Statements.SlotOk s (Statements.pushSlot s j)) →
    ∃ m : Memory,
      exec (.pushm c mask) s =
        .next (((s.setMem m).setSp (s.sp - BitVec.ofNat 32 (4 * l.length))).setPc (s.pc + 6#32)) ∧
      (∀ j (h : j < l.length), Statements.WordAt m (Statements.pushSlot s j).toNat (s.reg l[j])) ∧
      ∀ q, (∀ j, j < l.length → q < (Statements.pushSlot s j).toNat ∨ (Statements.pushSlot s j).toNat + 4 ≤ q) →
        m.read q = s.mem.read q

/-- 47_stack.md R233: the registers of the mask from the lowest to the highest, each from the next slot up; every other
register and all of memory are unchanged. -/
def Obligations.PopmResult : Prop :=
  ∀ (c : Cond) (mask : BitVec 16) (l : List Reg) (s : State), Statements.Holds c s → Statements.UpFrom mask l →
    (∀ j, j < l.length → Statements.SlotOk s (Statements.popSlot s j)) →
    ∃ t : State, exec (.popm c mask) s = .next t ∧
      t = ((s.setRegs t.regs).setSp (s.sp + BitVec.ofNat 32 (4 * l.length))).setPc (s.pc + 6#32) ∧
      (∀ j (h : j < l.length), Statements.WordAt s.mem (Statements.popSlot s j).toNat (t.reg l[j])) ∧
      ∀ r, mask.getLsbD r.val = false → t.reg r = s.reg r

/-- 47_stack.md R233: a POPM after the PUSHM of the same mask completes and restores every register of the mask and SP,
whatever the registers and flags became in between. -/
def Obligations.PopmAfterPushmRestores : Prop :=
  ∀ (c c' : Cond) (mask : BitVec 16) (s t u : State), Statements.Holds c s → exec (.pushm c mask) s = .next t →
    u.sp = t.sp → u.mem = t.mem → u.memSize = t.memSize → Statements.Holds c' u →
    ∃ v : State, exec (.popm c' mask) u = .next v ∧ v.sp = s.sp ∧ v.mem = t.mem ∧
      (∀ r : Reg, mask.getLsbD r.val = true → v.reg r = s.reg r) ∧
      ∀ r : Reg, mask.getLsbD r.val = false → v.reg r = u.reg r

/-- 47_stack.md R232, R233, R278 of 60_exceptions.md: the first slot in push or pop order that is misaligned or outside
memory is the fault. -/
def Obligations.PushmPopmFaults : Prop :=
  ∀ (c : Cond) (mask : BitVec 16) (l : List Reg) (j : Nat) (s : State), Statements.Holds c s → j < l.length →
    (Statements.DownFrom mask l → (∀ i, i < j → Statements.SlotOk s (Statements.pushSlot s i)) →
      ((Statements.pushSlot s j).toNat % 4 ≠ 0 →
        exec (.pushm c mask) s = .fault (.alignmentFault (Statements.pushSlot s j))) ∧
      ((Statements.pushSlot s j).toNat % 4 = 0 → s.memSize < (Statements.pushSlot s j).toNat + 4 →
        exec (.pushm c mask) s = .fault (.memoryFault (Statements.pushSlot s j) 4 .write))) ∧
    (Statements.UpFrom mask l → (∀ i, i < j → Statements.SlotOk s (Statements.popSlot s i)) →
      ((Statements.popSlot s j).toNat % 4 ≠ 0 →
        exec (.popm c mask) s = .fault (.alignmentFault (Statements.popSlot s j))) ∧
      ((Statements.popSlot s j).toNat % 4 = 0 → s.memSize < (Statements.popSlot s j).toNat + 4 →
        exec (.popm c mask) s = .fault (.memoryFault (Statements.popSlot s j) 4 .read)))

/-- 47_stack.md R234, R235, R236: ENTER, LEAVE and ALLOCA where they complete. -/
def Obligations.FrameInstructionResults : Prop :=
  ∀ (c : Cond) (r : Reg) (imm : BitVec 16) (s : State), Statements.Holds c s →
    (Statements.SlotOk s (s.sp - 4#32) → ∃ m : Memory,
      Statements.Stored s.mem m (s.sp - 4#32).toNat 4 (s.reg 15) ∧
      exec (.enter c imm) s =
        .next ((((s.setMem m).setReg 15 (s.sp - 4#32)).setSp (s.sp - 4#32 - BitVec.ofNat 32 imm.toNat)).setPc
          (s.pc + 6#32))) ∧
    (Statements.SlotOk s (s.reg 15) → ∃ v : Word, Statements.WordAt s.mem (s.reg 15).toNat v ∧
      exec (.leave c) s = .next (((s.setSp (s.reg 15 + 4#32)).setReg 15 v).setPc (s.pc + 2#32))) ∧
    exec (.alloca c r) s = .next ((s.setSp (s.sp - s.reg r)).setPc (s.pc + 4#32))

/-- 47_stack.md R235: LEAVE undoes ENTER, from any later state that still has R15 and the saved word, whatever SP became. -/
def Obligations.LeaveUndoesEnter : Prop :=
  ∀ (c c' : Cond) (imm : BitVec 16) (s t u : State), Statements.Holds c s → exec (.enter c imm) s = .next t →
    u.reg 15 = t.reg 15 → u.memSize = t.memSize → Statements.Holds c' u →
    (∀ k, k < 4 → u.mem.read ((t.reg 15).toNat + k) = t.mem.read ((t.reg 15).toNat + k)) →
    ∃ v : State, exec (.leave c') u = .next v ∧ v.sp = s.sp ∧ v.reg 15 = s.reg 15 ∧
      ∀ r : Reg, r ≠ 15 → v.reg r = u.reg r

/-- 47_stack.md R230, R231, R234, R235, 48_control_flow.md R247 to R249, R252: where the one-word stack instructions
fault, alignment before range. -/
def Obligations.StackFaults : Prop :=
  ∀ (c : Cond) (r : Reg) (rel : BitVec 8) (imm : BitVec 16) (addr : BitVec 24) (s : State), Statements.Holds c s →
    ((s.sp - 4#32).toNat % 4 ≠ 0 →
      exec (.push c r) s = .fault (.alignmentFault (s.sp - 4#32)) ∧
      exec (.enter c imm) s = .fault (.alignmentFault (s.sp - 4#32)) ∧
      exec (.call c addr) s = .fault (.alignmentFault (s.sp - 4#32)) ∧
      exec (.calli c r) s = .fault (.alignmentFault (s.sp - 4#32)) ∧
      exec (.bsr c rel) s = .fault (.alignmentFault (s.sp - 4#32))) ∧
    ((s.sp - 4#32).toNat % 4 = 0 → s.memSize < (s.sp - 4#32).toNat + 4 →
      exec (.push c r) s = .fault (.memoryFault (s.sp - 4#32) 4 .write) ∧
      exec (.enter c imm) s = .fault (.memoryFault (s.sp - 4#32) 4 .write) ∧
      exec (.call c addr) s = .fault (.memoryFault (s.sp - 4#32) 4 .write) ∧
      exec (.calli c r) s = .fault (.memoryFault (s.sp - 4#32) 4 .write) ∧
      exec (.bsr c rel) s = .fault (.memoryFault (s.sp - 4#32) 4 .write)) ∧
    (s.sp.toNat % 4 ≠ 0 →
      exec (.pop c r) s = .fault (.alignmentFault s.sp) ∧ exec (.ret c) s = .fault (.alignmentFault s.sp)) ∧
    (s.sp.toNat % 4 = 0 → s.memSize < s.sp.toNat + 4 →
      exec (.pop c r) s = .fault (.memoryFault s.sp 4 .read) ∧
      exec (.ret c) s = .fault (.memoryFault s.sp 4 .read)) ∧
    ((s.reg 15).toNat % 4 ≠ 0 → exec (.leave c) s = .fault (.alignmentFault (s.reg 15))) ∧
    ((s.reg 15).toNat % 4 = 0 → s.memSize < (s.reg 15).toNat + 4 →
      exec (.leave c) s = .fault (.memoryFault (s.reg 15) 4 .read))

/-! ## Control flow -/

/-- 48_control_flow.md R245, R246, R251: the three jumps change `pc` alone and never fault. -/
def Obligations.JumpResults : Prop :=
  ∀ (c : Cond) (r : Reg) (rel : BitVec 8) (addr : BitVec 24) (s : State), Statements.Holds c s →
    (∃ p : Word, p.toNat = addr.toNat ∧ exec (.jmp c addr) s = .next (s.setPc p)) ∧
    exec (.jmpr c r) s = .next (s.setPc (s.reg r)) ∧
    (∃ p : Word, (p.toNat : Int) = (s.pc.toNat + 4 + rel.toInt) % 2 ^ 32 ∧
      exec (.bra c rel) s = .next (s.setPc p))

/-- 48_control_flow.md R246: JMPR whole: its bytes, its result, its PAD bits, a target outside memory, and the rule's own
example. -/
def Obligations.JumpRegisterRule : Prop :=
  (∀ (c : Cond) (r : Reg), ∃ b1 o1 : Byte, b1.toNat = c.code.toNat * 2 ^ 5 ∧ o1.toNat = r.val * 2 ^ 4 ∧
    encode (.jmpr c r) = [b1, 0x71#8, o1, 0x00#8] ∧
    decode [b1, 0x71#8, o1, 0x00#8] = .ok (.jmpr c r, [])) ∧
  (∀ (c : Cond) (r : Reg) (s : State), Statements.Holds c s →
    exec (.jmpr c r) s = .next (s.setPc (s.reg r)) ∧
    (s.Running → s.memSize ≤ (s.reg r).toNat →
      step (s.setPc (s.reg r)) = .fault (.fetchFault (s.reg r)))) ∧
  (∀ (s : State) (b1 o1 o2 : Byte), s.Running → Statements.BytesAt s s.pc [b1, 0x71#8, o1, o2] →
    b1.toNat % 2 ^ 5 = 0 → o1.toNat % 2 ^ 4 ≠ 0 ∨ o2.toNat ≠ 0 →
    ∃ ops, step s = .fault (.illegalInstruction s.pc (b1 ++ 0x71#8) ops)) ∧
  ∀ s : State, s.Running → Statements.BytesAt s s.pc [0x00#8, 0x71#8, 0x10#8, 0x00#8] → s.reg 1 = 0x00002000#32 →
    step s = .next (s.setPc 0x00002000#32)

/-- 48_control_flow.md R247, R248, R249, R252: the three calls push the address after them; RET pops `pc`. -/
def Obligations.CallAndReturnResults : Prop :=
  ∀ (c : Cond) (r : Reg) (rel : BitVec 8) (addr : BitVec 24) (s : State), Statements.Holds c s →
    (Statements.SlotOk s (s.sp - 4#32) →
      (∃ (m : Memory) (p : Word), Statements.Stored s.mem m (s.sp - 4#32).toNat 4 (s.pc + 5#32) ∧
        p.toNat = addr.toNat ∧
        exec (.call c addr) s = .next (((s.setMem m).setSp (s.sp - 4#32)).setPc p)) ∧
      (∃ m : Memory, Statements.Stored s.mem m (s.sp - 4#32).toNat 4 (s.pc + 4#32) ∧
        exec (.calli c r) s = .next (((s.setMem m).setSp (s.sp - 4#32)).setPc (s.reg r))) ∧
      (∃ (m : Memory) (p : Word), Statements.Stored s.mem m (s.sp - 4#32).toNat 4 (s.pc + 4#32) ∧
        (p.toNat : Int) = (s.pc.toNat + 4 + rel.toInt) % 2 ^ 32 ∧
        exec (.bsr c rel) s = .next (((s.setMem m).setSp (s.sp - 4#32)).setPc p))) ∧
    (Statements.SlotOk s s.sp → ∃ v : Word, Statements.WordAt s.mem s.sp.toNat v ∧
      exec (.ret c) s = .next ((s.setSp (s.sp + 4#32)).setPc v))

/-- 48_control_flow.md R247, R248, R249, R252: RET returns behind the call, from any later state that still has SP and
the pushed word. -/
def Obligations.ReturnGoesBehindTheCall : Prop :=
  ∀ (c c' : Cond) (i : Instr) (s t u : State),
    ((∃ addr, i = .call c addr) ∨ (∃ r, i = .calli c r) ∨ (∃ rel, i = .bsr c rel)) →
    Statements.Holds c s → exec i s = .next t →
    u.sp = t.sp → u.memSize = t.memSize → Statements.Holds c' u →
    (∀ k, k < 4 → u.mem.read (t.sp.toNat + k) = t.mem.read (t.sp.toNat + k)) →
    exec (.ret c') u = .next ((u.setSp s.sp).setPc (s.pc + BitVec.ofNat 32 (encode i).length))

/-! ## Comparison -/

/-- 49_comparison.md R262, R263: TST and TSTI (CMP and CMPI stand in `AdditionAndSubtractionFlags`). -/
def Obligations.TestResults : Prop :=
  ∀ (c : Cond) (x y : Reg) (imm : BitVec 8) (s : State), Statements.Holds c s →
    (∃ r : Word, (∀ k, r.getLsbD k = ((s.reg x).getLsbD k && (s.reg y).getLsbD k)) ∧
      Statements.WritesFlags (.tst c x y) s (Statements.LogicFlagsOf r)) ∧
    (∃ r : Word, (∀ k, r.getLsbD k = ((s.reg x).getLsbD k && imm.getLsbD k)) ∧
      Statements.WritesFlags (.tsti c x imm) s (fun f => Statements.LogicFlagsOf r f ∧ f.n = false))

/-- 49_comparison.md R264: CMPF writes the four flags from one function of the two words and changes nothing else. The
function is the spec's open parameter, in the model a constant without a body (log 11). -/
def Obligations.CompareFloatDependsOnTheTwoWords : Prop :=
  ∃ g : Word → Word → Flags, ∀ (c : Cond) (x y : Reg) (s : State), Statements.Holds c s →
    exec (.cmpf c x y) s = .next ((s.setFlags (g (s.reg x) (s.reg y))).setPc (s.pc + 4#32))

/-! ## The environment -/

/-- 60_exceptions.md R284: what a system call that resumes preserves, in the stronger of the rule's two contracts (log
21). That a call outside the table resumes, and never ends the run, is the model's choice (log 26). -/
def Obligations.SystemCallPreserves : Prop :=
  ∀ (c : Cond) (s e t : State), Statements.Holds c s → s.halted = false → s.reg 0 ≠ 20#32 →
    exec (.syscall c) s = .next e → step e = .next t →
    t.pc = s.pc + 2#32 ∧ (∀ r : Reg, 2 ≤ r.val → t.reg r = s.reg r) ∧ t.sp = s.sp ∧ t.flags = s.flags ∧
      t.halted = false ∧ t.control = .machine ∧ t.memSize = s.memSize

/-- 60_exceptions.md R285: what a standard system call may write in memory. -/
def Obligations.SystemCallWritesOnlyItsBuffer : Prop :=
  ∀ (c : Cond) (s e t : State), Statements.Holds c s → exec (.syscall c) s = .next e → step e = .next t →
    (s.reg 0 = 10#32 → ∀ q, q < (s.reg 2).toNat ∨ (s.reg 2).toNat + (s.reg 3).toNat ≤ q →
      t.mem.read q = s.mem.read q) ∧
    (s.reg 0 = 11#32 ∨ s.reg 0 = 12#32 ∨ s.reg 0 = 13#32 ∨ s.reg 0 = 20#32 ∨ s.reg 0 = 30#32 → t.mem = s.mem)

/-- 60_exceptions.md R282, R285: SYS_OPEN and SYS_CLOSE are always answered, SYS_READ, SYS_WRITE and SYS_PRINT when their
buffer lies inside memory; a buffer that does not is refused by name. That an empty buffer counts as inside and that no
range of SYS_OPEN's path is checked are the model's readings (logs 10 and 23). -/
def Obligations.StandardCallsAreAnswered : Prop :=
  ∀ (c : Cond) (s e : State), Statements.Holds c s → exec (.syscall c) s = .next e →
    (s.reg 0 = 12#32 ∨ s.reg 0 = 13#32 → ∃ t, step e = .next t) ∧
    (s.reg 0 = 10#32 ∨ s.reg 0 = 11#32 → (s.reg 2).toNat + (s.reg 3).toNat ≤ s.memSize → ∃ t, step e = .next t) ∧
    (s.reg 0 = 30#32 → (s.reg 1).toNat + (s.reg 2).toNat ≤ s.memSize → ∃ t, step e = .next t) ∧
    (s.reg 0 = 10#32 ∨ s.reg 0 = 11#32 → s.reg 3 ≠ 0#32 → s.memSize < (s.reg 2).toNat + (s.reg 3).toNat →
      step e = .refused (.bufferOutsideMemory (s.reg 0))) ∧
    (s.reg 0 = 30#32 → s.reg 2 ≠ 0#32 → s.memSize < (s.reg 1).toNat + (s.reg 2).toNat →
      step e = .refused (.bufferOutsideMemory (s.reg 0)))

/-- 60_exceptions.md R286: SYS_EXIT ends the run with the exit code in R1 and changes nothing else of the machine. The
field that holds the end of the run is the model's (logs 7, 8, 12). -/
def Obligations.SysExitEndsTheRun : Prop :=
  ∀ (c : Cond) (s e : State), Statements.Holds c s → s.reg 0 = 20#32 → exec (.syscall c) s = .next e →
    ∃ t, step e = .next t ∧ t = (s.setPc (s.pc + 2#32)).countAnswer.setControl (.ended (some (s.reg 1))) ∧
      step t = .next t

/-- 60_exceptions.md R287 to R289: TRAP, INT, IRET and RETI are answered, by a machine that resumes or by the end of the
run, and memory keeps its size. That the environment always answers so is the model's choice (logs 7 and 20). -/
def Obligations.OtherEventsAreAnswered : Prop :=
  ∀ (s : State) (e : Event), s.control = .environment e →
    ((∃ n, e = .trap n) ∨ (∃ n, e = .softInt n) ∨ e = .intReturn) →
    ∃ t, step s = .next t ∧ (t.control = .machine ∨ t.control = .ended none) ∧ t.memSize = s.memSize

/-! ## Invariants and whole-machine rules -/

/-- Every transition keeps the invariant `State.Inv` (00_scope.md R8, 20_memory.md R50, R63, 60_exceptions.md R284) and
the size of memory, whatever the environment answers. That memory is a list in a canonical form, and which form, is the
model's choice (log 5). -/
def Obligations.StepKeepsInvariant : Prop :=
  ∀ s t : State, s.Inv → step s = .next t → t.Inv ∧ t.memSize = s.memSize

/-- The invariant holds after any launch with a legal memory size and a canonical image inside memory, and so at the
model's own reset (logs 1 to 5). -/
def Obligations.LaunchMeetsInvariant : Prop :=
  (∀ (n : Nat) (p : Word) (rs : Vector Word 16) (f : Flags) (m : Memory),
    4 ≤ n → n ≤ 2 ^ 32 → n % 4 = 0 → m.wf = true → m.below n = true → (State.launch n p rs f m).Inv) ∧
  State.reset.Inv

/-- 10_state.md R36: SP after a launch, and where the first push writes. -/
def Obligations.LaunchSetsStackToTop : Prop :=
  ∀ (n : Nat) (p : Word) (rs : Vector Word 16) (f : Flags) (m : Memory), 4 ≤ n → n ≤ 2 ^ 32 → n % 4 = 0 →
    (State.launch n p rs f m).sp.toNat = n % 2 ^ 32 ∧
    ∀ v : Word, ∃ m' : Memory, Statements.Stored m m' (n - 4) 4 v ∧
      (State.launch n p rs f m).push v =
        .ok (((State.launch n p rs f m).setMem m').setSp (BitVec.ofNat 32 (n - 4)))

/-- 10_state.md R31: outside the arithmetic, logical, shift and comparison families no instruction changes a flag. -/
def Obligations.OnlyFourFamiliesWriteFlags : Prop :=
  ∀ (i : Instr) (s t : State), exec i s = .next t →
    ¬((0x20 ≤ Statements.opcode i ∧ Statements.opcode i ≤ 0x4F) ∨ 0x80 ≤ Statements.opcode i) → t.flags = s.flags

/-- 10_state.md R28: only the stack family, CALL, CALLI, RET and BSR change SP. -/
def Obligations.OnlyStackInstructionsWriteSp : Prop :=
  ∀ (i : Instr) (s t : State), exec i s = .next t →
    ¬(0x60 ≤ Statements.opcode i ∧ Statements.opcode i ≤ 0x66) → Statements.opcode i ∉ [0x72, 0x73, 0x74, 0x77] →
    t.sp = s.sp

/-- 20_memory.md R51, R63: only stores, pushes and calls change memory. -/
def Obligations.OnlyStoresAndPushesWriteMemory : Prop :=
  ∀ (i : Instr) (s t : State), exec i s = .next t →
    Statements.opcode i ∉ [0x51, 0x53, 0x55, 0x60, 0x62, 0x64, 0x72, 0x73, 0x77] → t.mem = s.mem

/-- 10_state.md R25: an instruction that transfers no control advances `pc` by its length, wrapping. -/
def Obligations.OtherInstructionsAdvancePc : Prop :=
  ∀ (i : Instr) (s t : State), exec i s = .next t →
    Statements.opcode i ∉ [0x70, 0x71, 0x72, 0x73, 0x74, 0x76, 0x77] →
    t.pc.toNat = (s.pc.toNat + (encode i).length) % 2 ^ 32 ∧ (encode i).length ∈ [2, 4, 5, 6, 8]

/-- 10_state.md R21, 00_scope.md R18: an instruction changes no general register but its destinations. -/
def Obligations.OnlyDestinationsAreWritten : Prop :=
  ∀ (i : Instr) (s t : State) (r : Reg), exec i s = .next t → ¬Statements.MayWrite i r → t.reg r = s.reg r

/-- 10_state.md R32, 60_exceptions.md R281: only HALT changes `halted`, only the five event instructions hand over, and no
instruction changes the memory size or counts an answer. The fields `control`, `memSize` and `envCount` are the model's
(logs 4, 7 and 8). -/
def Obligations.OnlyHaltHaltsAndOnlyEventsHandOver : Prop :=
  ∀ (i : Instr) (s t : State), exec i s = .next t →
    (Statements.opcode i ≠ 0x00 → t.halted = s.halted) ∧
    (Statements.opcode i ∉ [0x01, 0x02, 0x03, 0x04, 0x75] → t.control = s.control) ∧
    t.memSize = s.memSize ∧ t.envCount = s.envCount

/-- The canonical form is canonical: two memories in it that read the same everywhere are the same data. The form is the
model's choice (log 5). -/
def Obligations.CanonicalMemoriesThatReadAlikeAreEqual : Prop :=
  ∀ m m' : Memory, m.wf = true → m'.wf = true → (∀ a, m.read a = m'.read a) → m = m'
end

