-- ==== Sys2Proof/Laws/Decode.lean ====
section
/-! SUPPORT. The fields of an encoding read back what the encoder put there. -/

namespace Sys2Proof

@[simp] theorem regOf_regBits (r : Reg) : regOf (regBits r) = r := rfl

@[simp] theorem regBits_regOf (v : BitVec 4) : regBits (regOf v) = v := rfl

@[simp] theorem condOf_code (c : Cond) : condOf c.code = c := by cases c <;> rfl

@[simp] theorem code_condOf (v : BitVec 3) : (condOf v).code = v := by revert v; decide

@[simp] theorem hiNibble_append (a b : BitVec 4) : hiNibble (a ++ b) = a := by
  revert a b; decide

@[simp] theorem loNibble_append (a b : BitVec 4) : loNibble (a ++ b) = b := by
  revert a b; decide

@[simp] theorem nibbles_append (b : Byte) : hiNibble b ++ loNibble b = b := by
  revert b; decide

@[simp] theorem condBits_header (c : Cond) : condBits (c.code ++ 0#5) = c.code := by cases c <;> rfl

@[simp] theorem flagsField_header (c : Cond) : flagsField (c.code ++ 0#5) = 0#5 := by cases c <;> rfl

/-- A first header byte with a zero FLAGS field is the header byte of its condition. -/
theorem header_of_flagsField {b : Byte} (h : flagsField b = 0#5) : (condOf (condBits b)).code ++ 0#5 = b := by
  revert b; decide

@[simp] theorem imm5_low (v : BitVec 5) : (0#3 ++ v : Byte).extractLsb' 0 5 = v := by revert v; decide

@[simp] theorem imm5_pad (v : BitVec 5) : (0#3 ++ v : Byte).extractLsb' 5 3 = 0#3 := by revert v; decide

/-- A byte with clear top three bits is its low five bits. -/
theorem imm5_of_pad {b : Byte} (h : b.extractLsb' 5 3 = 0#3) : 0#3 ++ b.extractLsb' 0 5 = b := by
  revert b; decide

/-- The number of bytes of every encoding (30_encoding.md R84). -/
theorem headerBytes_length (c : Cond) (op : Byte) : (headerBytes c op).length = 2 := rfl

/-- A low nibble that is a cleared PAD is the zero the encoder puts there. -/
theorem hiNibble_pad {b : Byte} (h : loNibble b = 0#4) : hiNibble b ++ 0#4 = b := by
  rw [← h]; exact nibbles_append b

/-- The last byte of a concatenation. -/
theorem lastByte_append {n : Nat} (x : BitVec n) (b : Byte) : (x ++ b).extractLsb' 0 8 = b := by
  ext i hi
  simp [BitVec.getLsbD_append, hi]

/-- The other bytes of a concatenation. -/
theorem otherByte_append {n : Nat} (x : BitVec n) (b : Byte) (k : Nat) :
    (x ++ b).extractLsb' (8 + k) 8 = x.extractLsb' k 8 := by
  ext i hi
  simp [BitVec.getLsbD_append, Nat.add_assoc]

theorem firstByte (a : Byte) : a.extractLsb' 0 8 = a := by simp

/-- Two bytes put together and taken apart. -/
theorem bytes16_append (a b : Byte) : bytes16 (a ++ b) = [a, b] := by
  rw [bytes16, otherByte_append a b 0, firstByte, lastByte_append a b]

/-- Three bytes put together and taken apart. -/
theorem bytes24_append (a b c : Byte) : bytes24 (a ++ b ++ c) = [a, b, c] := by
  rw [bytes24, otherByte_append (a ++ b) c 8, otherByte_append (a ++ b) c 0, lastByte_append (a ++ b) c,
    otherByte_append a b 0, firstByte, lastByte_append a b]

/-- Four bytes put together and taken apart. -/
theorem bytes32_append (a b c d : Byte) : bytes32 (a ++ b ++ c ++ d) = [a, b, c, d] := by
  rw [bytes32, otherByte_append (a ++ b ++ c) d 16, otherByte_append (a ++ b ++ c) d 8,
    otherByte_append (a ++ b ++ c) d 0, lastByte_append (a ++ b ++ c) d, otherByte_append (a ++ b) c 8,
    otherByte_append (a ++ b) c 0, lastByte_append (a ++ b) c, otherByte_append a b 0, firstByte, lastByte_append a b]

/-- A sixteen-bit value taken apart and put together. -/
@[simp] theorem append_bytes16 (v : BitVec 16) : v.extractLsb' 8 8 ++ v.extractLsb' 0 8 = v := by
  ext i hi
  simp only [BitVec.getElem_append, BitVec.getElem_extractLsb']
  split
  · rw [Nat.zero_add, BitVec.getLsbD_eq_getElem hi]
  · rw [show 8 + (i - 8) = i by omega, BitVec.getLsbD_eq_getElem hi]

/-- A twenty-four-bit value taken apart and put together. -/
@[simp] theorem append_bytes24 (v : BitVec 24) :
    v.extractLsb' 16 8 ++ v.extractLsb' 8 8 ++ v.extractLsb' 0 8 = v := by
  ext i hi
  simp only [BitVec.getElem_append, BitVec.getElem_extractLsb']
  split
  · rw [Nat.zero_add, BitVec.getLsbD_eq_getElem hi]
  split
  · rw [show 8 + (i - 8) = i by omega, BitVec.getLsbD_eq_getElem hi]
  · rw [show 16 + (i - 8 - 8) = i by omega, BitVec.getLsbD_eq_getElem hi]

/-- A word taken apart and put together. -/
@[simp] theorem append_bytes32 (v : BitVec 32) :
    v.extractLsb' 24 8 ++ v.extractLsb' 16 8 ++ v.extractLsb' 8 8 ++ v.extractLsb' 0 8 = v := by
  ext i hi
  simp only [BitVec.getElem_append, BitVec.getElem_extractLsb']
  split
  · rw [Nat.zero_add, BitVec.getLsbD_eq_getElem hi]
  split
  · rw [show 8 + (i - 8) = i by omega, BitVec.getLsbD_eq_getElem hi]
  split
  · rw [show 16 + (i - 8 - 8) = i by omega, BitVec.getLsbD_eq_getElem hi]
  · rw [show 24 + (i - 8 - 8 - 8) = i by omega, BitVec.getLsbD_eq_getElem hi]

/-! ## What the operand reader accepts -/

theorem Pattern.operands_n {mk : Instr} {ops : List Byte} {i : Instr} :
    (Pattern.n mk).operands ops = .ok i ↔ ops = [] ∧ i = mk := by
  cases ops <;> simp [Pattern.operands, eq_comm]

theorem Pattern.operands_rrr {mk : Reg → Reg → Reg → Instr} {ops : List Byte} {i : Instr} :
    (Pattern.rrr mk).operands ops = .ok i ↔ ∃ (a : Reg) (b : Reg) (c : Reg), ops = bytesRRR a b c ∧ i = mk a b c := by
  constructor
  · intro h
    unfold Pattern.operands at h
    split at h <;> simp_all only [Pattern.rrr.injEq, reduceCtorEq]
    split at h <;> simp only [Except.ok.injEq, reduceCtorEq] at h
    exact ⟨_, _, _, by simp [bytesRRR, regPair, regPad, hiNibble_pad, *], h.symm⟩
  · rintro ⟨_, _, _, rfl, rfl⟩
    simp [Pattern.operands, bytesRRR, regPair, regPad]

theorem Pattern.operands_rr {mk : Reg → Reg → Instr} {ops : List Byte} {i : Instr} :
    (Pattern.rr mk).operands ops = .ok i ↔ ∃ (a : Reg) (b : Reg), ops = bytesRR a b ∧ i = mk a b := by
  constructor
  · intro h
    unfold Pattern.operands at h
    split at h <;> simp_all only [Pattern.rr.injEq, reduceCtorEq]
    split at h <;> simp only [Except.ok.injEq, reduceCtorEq] at h
    exact ⟨_, _, by simp [bytesRR, regPair, *], h.symm⟩
  · rintro ⟨_, _, rfl, rfl⟩
    simp [Pattern.operands, bytesRR, regPair]

theorem Pattern.operands_ri8 {mk : Reg → BitVec 8 → Instr} {ops : List Byte} {i : Instr} :
    (Pattern.ri8 mk).operands ops = .ok i ↔ ∃ (a : Reg) (b : BitVec 8), ops = bytesRI8 a b ∧ i = mk a b := by
  constructor
  · intro h
    unfold Pattern.operands at h
    split at h <;> simp_all only [Pattern.ri8.injEq, reduceCtorEq]
    split at h <;> simp only [Except.ok.injEq, reduceCtorEq] at h
    exact ⟨_, _, by simp [bytesRI8, regPad, hiNibble_pad, *], h.symm⟩
  · rintro ⟨_, _, rfl, rfl⟩
    simp [Pattern.operands, bytesRI8, regPad]

theorem Pattern.operands_ri16 {mk : Reg → BitVec 16 → Instr} {ops : List Byte} {i : Instr} :
    (Pattern.ri16 mk).operands ops = .ok i ↔ ∃ (a : Reg) (b : BitVec 16), ops = bytesRI16 a b ∧ i = mk a b := by
  constructor
  · intro h
    unfold Pattern.operands at h
    split at h <;> simp_all only [Pattern.ri16.injEq, reduceCtorEq]
    split at h <;> simp only [Except.ok.injEq, reduceCtorEq] at h
    exact ⟨_, _, by simp [bytesRI16, regPad, bytes16_append, hiNibble_pad, *], h.symm⟩
  · rintro ⟨_, _, rfl, rfl⟩
    simp [Pattern.operands, bytesRI16, regPad, bytes16]

theorem Pattern.operands_m {mk : Reg → Reg → BitVec 8 → Instr} {ops : List Byte} {i : Instr} :
    (Pattern.m mk).operands ops = .ok i ↔ ∃ (a : Reg) (b : Reg) (c : BitVec 8), ops = bytesM a b c ∧ i = mk a b c := by
  constructor
  · intro h
    unfold Pattern.operands at h
    split at h <;> simp_all only [Pattern.m.injEq, reduceCtorEq]
    simp only [Except.ok.injEq] at h
    exact ⟨_, _, _, by simp [bytesM, regPair, *], h.symm⟩
  · rintro ⟨_, _, _, rfl, rfl⟩
    simp [Pattern.operands, bytesM, regPair]

theorem Pattern.operands_j {mk : BitVec 24 → Instr} {ops : List Byte} {i : Instr} :
    (Pattern.j mk).operands ops = .ok i ↔ ∃ (a : BitVec 24), ops = bytesJ a ∧ i = mk a := by
  constructor
  · intro h
    unfold Pattern.operands at h
    split at h <;> simp_all only [Pattern.j.injEq, reduceCtorEq]
    simp only [Except.ok.injEq] at h
    exact ⟨_, by simp [bytesJ, bytes24_append, *], h.symm⟩
  · rintro ⟨_, rfl, rfl⟩
    simp [Pattern.operands, bytesJ, bytes24]

theorem Pattern.operands_r {mk : Reg → Instr} {ops : List Byte} {i : Instr} :
    (Pattern.r mk).operands ops = .ok i ↔ ∃ (a : Reg), ops = bytesR a ∧ i = mk a := by
  constructor
  · intro h
    unfold Pattern.operands at h
    split at h <;> simp_all only [Pattern.r.injEq, reduceCtorEq]
    split at h <;> simp only [Except.ok.injEq, reduceCtorEq] at h
    exact ⟨_, by simp [bytesR, regPad, hiNibble_pad, *], h.symm⟩
  · rintro ⟨_, rfl, rfl⟩
    simp [Pattern.operands, bytesR, regPad]

theorem Pattern.operands_i8 {mk : BitVec 8 → Instr} {ops : List Byte} {i : Instr} :
    (Pattern.i8 mk).operands ops = .ok i ↔ ∃ (a : BitVec 8), ops = bytesI8 a ∧ i = mk a := by
  constructor
  · intro h
    unfold Pattern.operands at h
    split at h <;> simp_all only [Pattern.i8.injEq, reduceCtorEq]
    split at h <;> simp only [Except.ok.injEq, reduceCtorEq] at h
    exact ⟨_, by simp [bytesI8, *], h.symm⟩
  · rintro ⟨_, rfl, rfl⟩
    simp [Pattern.operands, bytesI8]

theorem Pattern.operands_rri8 {mk : Reg → Reg → BitVec 8 → Instr} {ops : List Byte} {i : Instr} :
    (Pattern.rri8 mk).operands ops = .ok i ↔ ∃ (a : Reg) (b : Reg) (c : BitVec 8), ops = bytesRRI8 a b c ∧ i = mk a b c := by
  constructor
  · intro h
    unfold Pattern.operands at h
    split at h <;> simp_all only [Pattern.rri8.injEq, reduceCtorEq]
    simp only [Except.ok.injEq] at h
    exact ⟨_, _, _, by simp [bytesRRI8, regPair, *], h.symm⟩
  · rintro ⟨_, _, _, rfl, rfl⟩
    simp [Pattern.operands, bytesRRI8, regPair]

theorem Pattern.operands_rri5 {mk : Reg → Reg → BitVec 5 → Instr} {ops : List Byte} {i : Instr} :
    (Pattern.rri5 mk).operands ops = .ok i ↔ ∃ (a : Reg) (b : Reg) (c : BitVec 5), ops = bytesRRI5 a b c ∧ i = mk a b c := by
  constructor
  · intro h
    unfold Pattern.operands at h
    split at h <;> simp_all only [Pattern.rri5.injEq, reduceCtorEq]
    split at h <;> simp only [Except.ok.injEq, reduceCtorEq] at h
    exact ⟨_, _, _, by simp [bytesRRI5, regPair, imm5_of_pad, *], h.symm⟩
  · rintro ⟨_, _, _, rfl, rfl⟩
    simp [Pattern.operands, bytesRRI5, regPair]

theorem Pattern.operands_i16 {mk : BitVec 16 → Instr} {ops : List Byte} {i : Instr} :
    (Pattern.i16 mk).operands ops = .ok i ↔ ∃ (a : BitVec 16), ops = bytesI16 a ∧ i = mk a := by
  constructor
  · intro h
    unfold Pattern.operands at h
    split at h <;> simp_all only [Pattern.i16.injEq, reduceCtorEq]
    split at h <;> simp only [Except.ok.injEq, reduceCtorEq] at h
    exact ⟨_, by simp [bytesI16, bytes16_append, *], h.symm⟩
  · rintro ⟨_, rfl, rfl⟩
    simp [Pattern.operands, bytesI16, bytes16]

theorem Pattern.operands_ri32 {mk : Reg → BitVec 32 → Instr} {ops : List Byte} {i : Instr} :
    (Pattern.ri32 mk).operands ops = .ok i ↔ ∃ (a : Reg) (b : BitVec 32), ops = bytesRI32 a b ∧ i = mk a b := by
  constructor
  · intro h
    unfold Pattern.operands at h
    split at h <;> simp_all only [Pattern.ri32.injEq, reduceCtorEq]
    split at h <;> simp only [Except.ok.injEq, reduceCtorEq] at h
    exact ⟨_, _, by simp [bytesRI32, regPad, bytes32_append, hiNibble_pad, *], h.symm⟩
  · rintro ⟨_, _, rfl, rfl⟩
    simp [Pattern.operands, bytesRI32, regPad, bytes32]


/-- The reader takes exactly as many bytes as the layout has. -/
theorem Pattern.operands_length {p : Pattern} {ops : List Byte} {i : Instr} (h : p.operands ops = .ok i) :
    ops.length = p.layout.operandBytes := by
  cases p with
  | n mk => rw [Pattern.operands_n] at h; obtain ⟨rfl, -⟩ := h; rfl
  | rrr mk => rw [Pattern.operands_rrr] at h; obtain ⟨_, _, _, rfl, -⟩ := h; rfl
  | rr mk => rw [Pattern.operands_rr] at h; obtain ⟨_, _, rfl, -⟩ := h; rfl
  | ri8 mk => rw [Pattern.operands_ri8] at h; obtain ⟨_, _, rfl, -⟩ := h; rfl
  | ri16 mk => rw [Pattern.operands_ri16] at h; obtain ⟨_, _, rfl, -⟩ := h; rfl
  | m mk => rw [Pattern.operands_m] at h; obtain ⟨_, _, _, rfl, -⟩ := h; rfl
  | j mk => rw [Pattern.operands_j] at h; obtain ⟨_, rfl, -⟩ := h; rfl
  | r mk => rw [Pattern.operands_r] at h; obtain ⟨_, rfl, -⟩ := h; rfl
  | i8 mk => rw [Pattern.operands_i8] at h; obtain ⟨_, rfl, -⟩ := h; rfl
  | rri8 mk => rw [Pattern.operands_rri8] at h; obtain ⟨_, _, _, rfl, -⟩ := h; rfl
  | rri5 mk => rw [Pattern.operands_rri5] at h; obtain ⟨_, _, _, rfl, -⟩ := h; rfl
  | i16 mk => rw [Pattern.operands_i16] at h; obtain ⟨_, rfl, -⟩ := h; rfl
  | ri32 mk => rw [Pattern.operands_ri32] at h; obtain ⟨_, _, rfl, -⟩ := h; rfl

/-- Which header bytes pass the header checks (40_execution_cycle.md R132). -/
theorem decodeHeader_ok {b1 b2 : Byte} {p : Pattern} :
    decodeHeader b1 b2 = .ok p ↔ ∃ c, b1 = c.code ++ 0#5 ∧ pattern c b2 = some p := by
  unfold decodeHeader
  constructor
  · intro h
    split at h
    · split at h
      · rename_i hp
        injection h with h
        subst h
        exact ⟨_, (header_of_flagsField ‹_›).symm, hp⟩
      · simp at h
    · simp at h
  · rintro ⟨c, rfl, h⟩
    simp [h]

/-- All the decoder accepts: a header, operand bytes that its pattern reads, and whatever follows them. -/
theorem decode_ok {bs rest : List Byte} {i : Instr} :
    decode bs = .ok (i, rest) ↔ ∃ (c : Cond) (op : Byte) (p : Pattern) (ops : List Byte),
      pattern c op = some p ∧ p.operands ops = .ok i ∧ bs = headerBytes c op ++ ops ++ rest := by
  constructor
  · intro h
    match bs with
    | [] => simp [decode] at h
    | [_] => simp [decode] at h
    | b1 :: b2 :: tail =>
      rw [decode] at h
      split at h
      · simp at h
      · rename_i p hd
        obtain ⟨c, rfl, hp⟩ := decodeHeader_ok.mp hd
        split at h
        · simp at h
        · split at h
          · simp at h
          · rename_i j ho
            simp only [Except.ok.injEq, Prod.mk.injEq] at h
            obtain ⟨rfl, rfl⟩ := h
            exact ⟨c, b2, p, _, hp, ho, by simp [headerBytes]⟩
  · rintro ⟨c, op, p, ops, hp, ho, rfl⟩
    have hl := Pattern.operands_length ho
    have hd : decodeHeader (c.code ++ 0#5) op = .ok p := decodeHeader_ok.mpr ⟨c, rfl, hp⟩
    simp [headerBytes, decode, hd, ← hl, ho]

end Sys2Proof
end

