-- ==== Sys2Proof/Laws/Memory.lean ====
section
/-! SUPPORT. The laws of memory: reading after a write, and that every write keeps the canonical form and the bounds. -/

namespace Sys2Proof.Machine

/-! ## Reading after a write -/

theorem Memory.read_erase_same (m : Memory) (a : Nat) : (Memory.erase m a).read a = Config.unlistedByte := by
  induction m with
  | nil => rfl
  | cons c rest ih =>
    obtain ⟨x, y⟩ := c
    by_cases h : x = a
    · simpa [Memory.erase, h] using ih
    · simpa [Memory.erase, h, Memory.read] using ih

theorem Memory.read_erase_other (m : Memory) {a q : Nat} (h : q ≠ a) : (Memory.erase m a).read q = m.read q := by
  induction m with
  | nil => rfl
  | cons c rest ih =>
    obtain ⟨x, y⟩ := c
    by_cases hx : x = a
    · have hq : ¬a = q := fun e => h e.symm
      subst hx
      simpa [Memory.erase, Memory.read, hq] using ih
    · by_cases hq : x = q
      · simp [Memory.erase, Memory.read, hq, h]
      · simpa [Memory.erase, hx, Memory.read, hq] using ih

theorem Memory.read_insert_same (m : Memory) (a : Nat) (b : Byte) (h : ∀ c ∈ m, c.1 ≠ a) :
    (Memory.insert a b m).read a = b := by
  induction m with
  | nil => simp [Memory.insert, Memory.read]
  | cons c rest ih =>
    obtain ⟨x, y⟩ := c
    have hx : ¬x = a := h (x, y) (by simp)
    by_cases hl : a < x
    · simp [Memory.insert, hl, Memory.read]
    · simpa [Memory.insert, hl, Memory.read, hx] using ih (fun c hc => h c (by simp [hc]))

theorem Memory.read_insert_other (m : Memory) {a q : Nat} (b : Byte) (h : q ≠ a) :
    (Memory.insert a b m).read q = m.read q := by
  induction m with
  | nil => simp [Memory.insert, Memory.read, Ne.symm h]
  | cons c rest ih =>
    obtain ⟨x, y⟩ := c
    by_cases hl : a < x
    · simp [Memory.insert, hl, Memory.read, Ne.symm h]
    · by_cases hx : x = q
      · subst hx
        simp [Memory.insert, hl, Memory.read]
      · simpa [Memory.insert, hl, Memory.read, hx] using ih

theorem Memory.mem_erase_ne (m : Memory) (a : Nat) : ∀ c ∈ Memory.erase m a, c.1 ≠ a := by
  intro c hc
  simpa using (List.mem_filter.mp hc).2

/-- A read after a write to the same address gives the value written (20_memory.md R63). -/
@[simp] theorem Memory.read_write_same (m : Memory) (a : Nat) (b : Byte) : (m.write a b).read a = b := by
  unfold Memory.write
  split
  · simp [Memory.read_erase_same, *]
  · exact Memory.read_insert_same _ a b (Memory.mem_erase_ne m a)

/-- A write leaves every other address alone (20_memory.md R58). -/
theorem Memory.read_write_other (m : Memory) {a q : Nat} (b : Byte) (h : q ≠ a) :
    (m.write a b).read q = m.read q := by
  unfold Memory.write
  split
  · exact Memory.read_erase_other m h
  · rw [Memory.read_insert_other _ b h, Memory.read_erase_other m h]

/-- Reading after writing a byte. -/
theorem Memory.read_write (m : Memory) (a q : Nat) (b : Byte) :
    (m.write a b).read q = if q = a then b else m.read q := by
  split
  · subst_vars; simp
  · exact Memory.read_write_other m b ‹_›

/-- Bytes written below or above an address leave it alone. -/
theorem Memory.read_writeBytes_other (m : Memory) (a : Nat) (bs : List Byte) {q : Nat}
    (h : q < a ∨ a + bs.length ≤ q) : (m.writeBytes a bs).read q = m.read q := by
  induction bs generalizing m a with
  | nil => rfl
  | cons b bs ih =>
    rw [Memory.writeBytes, ih, Memory.read_write_other]
    · simp at h; omega
    · simp at h ⊢; omega

/-- The bytes written are read back, each at its own address. -/
theorem Memory.read_writeBytes_same (m : Memory) (a : Nat) (bs : List Byte) (k : Nat) (h : k < bs.length) :
    (m.writeBytes a bs).read (a + k) = bs[k] := by
  induction bs generalizing m a k with
  | nil => simp at h
  | cons b bs ih =>
    rw [Memory.writeBytes]
    cases k with
    | zero => rw [Memory.read_writeBytes_other _ _ _ (by omega)]; simp
    | succ k =>
      have e : a + (k + 1) = a + 1 + k := by omega
      rw [e, ih (m.write a b) (a + 1) k (by simpa using h)]
      simp

/-- A store of a width writes that many bytes. -/
@[simp] theorem Width.split_length (w : Width) (v : Word) : (w.split v).length = w.bytes := by cases w <;> rfl

/-- The bytes a store of a width writes, as numbers (20_memory.md R53, R58). -/
theorem Width.split_toNat (w : Width) (v : Word) (k : Nat) (h : k < (w.split v).length) :
    (w.split v)[k].toNat = v.toNat / 2 ^ (8 * (w.bytes - 1 - k)) % 2 ^ 8 := by
  have hk : k < w.bytes := by simpa using h
  cases w <;> simp only [Width.bytes] at hk
  · obtain rfl : k = 0 := by omega
    simp [Width.split, Width.bytes]
  · obtain rfl | rfl : k = 0 ∨ k = 1 := by omega
    all_goals simp [Width.split, Width.bytes, Nat.shiftRight_eq_div_pow]
  · obtain rfl | rfl | rfl | rfl : k = 0 ∨ k = 1 ∨ k = 2 ∨ k = 3 := by omega
    all_goals simp [Width.split, Width.bytes, Nat.shiftRight_eq_div_pow]

/-- A word read from memory, as a number (20_memory.md R53). -/
theorem Memory.readWord_toNat (m : Memory) (a : Nat) :
    (m.readWidth a .word).toNat =
      (m.read a).toNat * 2 ^ 24 + (m.read (a + 1)).toNat * 2 ^ 16 + (m.read (a + 2)).toNat * 2 ^ 8 +
        (m.read (a + 3)).toNat := by
  have cat : ∀ {n : Nat} (x : BitVec n) (b : Byte), (x ++ b).toNat = x.toNat * 2 ^ 8 + b.toNat := by
    intro n x b
    rw [BitVec.toNat_append, ← Nat.shiftLeft_add_eq_or_of_lt b.isLt, Nat.shiftLeft_eq]
  have e : (m.readWidth a .word).toNat =
      (m.read a ++ m.read (a + 1) ++ m.read (a + 2) ++ m.read (a + 3)).toNat := rfl
  rw [e, cat, cat, cat]
  omega

/-- A store of a width leaves every byte outside it alone (20_memory.md R58). -/
theorem Memory.read_writeWidth_other (m : Memory) (a : Nat) (w : Width) (v : Word) {q : Nat}
    (h : q < a ∨ a + w.bytes ≤ q) : (m.writeBytes a (w.split v)).read q = m.read q :=
  m.read_writeBytes_other a _ (by simpa using h)

/-- A word read where it was written is the word written (20_memory.md R53). -/
theorem Memory.readWord_writeWord (m : Memory) (a : Nat) (v : Word) :
    (m.writeBytes a (Width.word.split v)).readWidth a .word = v := by
  have h := fun k hk => m.read_writeBytes_same a (Width.word.split v) k hk
  have h0 := h 0 (by simp [Width.split])
  have h1 := h 1 (by simp [Width.split])
  have h2 := h 2 (by simp [Width.split])
  have h3 := h 3 (by simp [Width.split])
  simp only [Nat.add_zero] at h0
  rw [Memory.readWidth, h0, h1, h2, h3]
  simp only [Width.split]
  ext i hi
  simp only [BitVec.getElem_append, BitVec.getElem_extractLsb', List.getElem_cons_zero, List.getElem_cons_succ]
  split
  · simp [BitVec.getLsbD_eq_getElem, hi]
  split
  · rw [show 8 + (i - 8) = i by omega, BitVec.getLsbD_eq_getElem hi]
  split
  · rw [show 16 + (i - 8 - 8) = i by omega, BitVec.getLsbD_eq_getElem hi]
  · rw [show 24 + (i - 8 - 8 - 8) = i by omega, BitVec.getLsbD_eq_getElem hi]

/-- A word read outside the bytes written is unchanged. -/
theorem Memory.readWord_writeBytes_other (m : Memory) (a q : Nat) (bs : List Byte)
    (h : q + 4 ≤ a ∨ a + bs.length ≤ q) : (m.writeBytes a bs).readWidth q .word = m.readWidth q .word := by
  simp only [Memory.readWidth]
  rw [m.read_writeBytes_other a bs (q := q) (by omega), m.read_writeBytes_other a bs (q := q + 1) (by omega),
    m.read_writeBytes_other a bs (q := q + 2) (by omega), m.read_writeBytes_other a bs (q := q + 3) (by omega)]

/-! ## The canonical form is kept -/

theorem Memory.wf_cons (x : Nat) (y : Byte) (rest : Memory) :
    Memory.wf ((x, y) :: rest) = true ↔
      y ≠ Config.unlistedByte ∧ (∀ c ∈ rest, x < c.1) ∧ Memory.wf rest = true := by
  simp [Memory.wf, and_assoc]

theorem Memory.wf_erase (m : Memory) (a : Nat) (h : m.wf = true) : (Memory.erase m a).wf = true := by
  induction m with
  | nil => exact h
  | cons c rest ih =>
    obtain ⟨x, y⟩ := c
    rw [Memory.wf_cons] at h
    by_cases hx : x = a
    · simpa [Memory.erase, hx] using ih h.2.2
    · have e : Memory.erase ((x, y) :: rest) a = (x, y) :: Memory.erase rest a := by simp [Memory.erase, hx]
      rw [e, Memory.wf_cons]
      exact ⟨h.1, fun c hc => h.2.1 c (List.mem_filter.mp hc).1, ih h.2.2⟩

theorem Memory.mem_insert (m : Memory) (a : Nat) (b : Byte) (c : Host.Cell) :
    c ∈ Memory.insert a b m ↔ c = (a, b) ∨ c ∈ m := by
  induction m with
  | nil => simp [Memory.insert]
  | cons d rest ih =>
    obtain ⟨x, y⟩ := d
    by_cases hl : a < x
    · simp [Memory.insert, hl]
    · simp only [Memory.insert, hl, if_false, List.mem_cons, ih]
      constructor
      · rintro (h | h | h) <;> simp [h]
      · rintro (h | h | h) <;> simp [h]

theorem Memory.wf_insert (m : Memory) (a : Nat) (b : Byte) (h : m.wf = true) (hb : b ≠ Config.unlistedByte)
    (ha : ∀ c ∈ m, c.1 ≠ a) : (Memory.insert a b m).wf = true := by
  induction m with
  | nil => simp [Memory.insert, Memory.wf, hb]
  | cons d rest ih =>
    obtain ⟨x, y⟩ := d
    have h' := (Memory.wf_cons x y rest).mp h
    by_cases hl : a < x
    · rw [Memory.insert, if_pos hl, Memory.wf_cons]
      refine ⟨hb, ?_, h⟩
      intro c hc
      rcases List.mem_cons.mp hc with e | hc
      · simpa [e] using hl
      · exact lt_trans hl (h'.2.1 c hc)
    · rw [Memory.insert, if_neg hl, Memory.wf_cons]
      refine ⟨h'.1, ?_, ih h'.2.2 (fun c hc => ha c (by simp [hc]))⟩
      intro c hc
      rcases (Memory.mem_insert rest a b c).mp hc with e | hc
      · have := ha (x, y) (by simp)
        simp only [e]; simp at this; omega
      · exact h'.2.1 c hc

/-- Every byte store keeps the canonical form. -/
theorem Memory.wf_write (m : Memory) (a : Nat) (b : Byte) (h : m.wf = true) : (m.write a b).wf = true := by
  unfold Memory.write
  split
  · exact m.wf_erase a h
  · exact Memory.wf_insert _ a b (m.wf_erase a h) ‹_› (m.mem_erase_ne a)

/-- Every store keeps the canonical form. -/
theorem Memory.wf_writeBytes (m : Memory) (a : Nat) (bs : List Byte) (h : m.wf = true) :
    (m.writeBytes a bs).wf = true := by
  induction bs generalizing m a with
  | nil => exact h
  | cons b bs ih => exact ih _ _ (m.wf_write a b h)

/-! ## The bounds are kept -/

theorem Memory.below_iff (m : Memory) (n : Nat) : m.below n = true ↔ ∀ c ∈ m, c.1 < n := by
  simp [Memory.below]

/-- A byte store inside a bound keeps every entry inside it. -/
theorem Memory.below_write (m : Memory) (a : Nat) (b : Byte) {n : Nat} (h : m.below n = true) (ha : a < n) :
    (m.write a b).below n = true := by
  rw [Memory.below_iff] at *
  have he : ∀ c ∈ Memory.erase m a, c.1 < n := fun c hc => h c (List.mem_filter.mp hc).1
  unfold Memory.write
  split
  · exact he
  · intro c hc
    rcases (Memory.mem_insert _ a b c).mp hc with e | hc
    · simpa [e] using ha
    · exact he c hc

/-- A store inside a bound keeps every entry inside it. -/
theorem Memory.below_writeBytes (m : Memory) (a : Nat) (bs : List Byte) {n : Nat} (h : m.below n = true)
    (ha : a + bs.length ≤ n) : (m.writeBytes a bs).below n = true := by
  induction bs generalizing m a with
  | nil => exact h
  | cons b bs ih =>
    simp only [List.length_cons] at ha
    exact ih _ _ (m.below_write a b h (by omega)) (by omega)

end Sys2Proof.Machine
end

