-- ==== Sys2Proof/Laws/State.lean ====
section
/-! SUPPORT. One lemma per field per update of the state, and the laws of reading a general register. -/

namespace Sys2Proof.Machine

@[simp] theorem State.setReg_regs (s : State) (r : Reg) (v : Word) : (s.setReg r v).regs = s.regs.set r.val v r.isLt := rfl
@[simp] theorem State.setReg_pc (s : State) (r : Reg) (v : Word) : (s.setReg r v).pc = s.pc := rfl
@[simp] theorem State.setReg_sp (s : State) (r : Reg) (v : Word) : (s.setReg r v).sp = s.sp := rfl
@[simp] theorem State.setReg_flags (s : State) (r : Reg) (v : Word) : (s.setReg r v).flags = s.flags := rfl
@[simp] theorem State.setReg_halted (s : State) (r : Reg) (v : Word) : (s.setReg r v).halted = s.halted := rfl
@[simp] theorem State.setReg_mem (s : State) (r : Reg) (v : Word) : (s.setReg r v).mem = s.mem := rfl
@[simp] theorem State.setReg_memSize (s : State) (r : Reg) (v : Word) : (s.setReg r v).memSize = s.memSize := rfl
@[simp] theorem State.setReg_control (s : State) (r : Reg) (v : Word) : (s.setReg r v).control = s.control := rfl
@[simp] theorem State.setReg_envCount (s : State) (r : Reg) (v : Word) : (s.setReg r v).envCount = s.envCount := rfl

@[simp] theorem State.setRegs_regs (s : State) (v : Vector Word 16) : (s.setRegs v).regs = v := rfl
@[simp] theorem State.setRegs_pc (s : State) (v : Vector Word 16) : (s.setRegs v).pc = s.pc := rfl
@[simp] theorem State.setRegs_sp (s : State) (v : Vector Word 16) : (s.setRegs v).sp = s.sp := rfl
@[simp] theorem State.setRegs_flags (s : State) (v : Vector Word 16) : (s.setRegs v).flags = s.flags := rfl
@[simp] theorem State.setRegs_halted (s : State) (v : Vector Word 16) : (s.setRegs v).halted = s.halted := rfl
@[simp] theorem State.setRegs_mem (s : State) (v : Vector Word 16) : (s.setRegs v).mem = s.mem := rfl
@[simp] theorem State.setRegs_memSize (s : State) (v : Vector Word 16) : (s.setRegs v).memSize = s.memSize := rfl
@[simp] theorem State.setRegs_control (s : State) (v : Vector Word 16) : (s.setRegs v).control = s.control := rfl
@[simp] theorem State.setRegs_envCount (s : State) (v : Vector Word 16) : (s.setRegs v).envCount = s.envCount := rfl

@[simp] theorem State.setPc_regs (s : State) (v : Word) : (s.setPc v).regs = s.regs := rfl
@[simp] theorem State.setPc_pc (s : State) (v : Word) : (s.setPc v).pc = v := rfl
@[simp] theorem State.setPc_sp (s : State) (v : Word) : (s.setPc v).sp = s.sp := rfl
@[simp] theorem State.setPc_flags (s : State) (v : Word) : (s.setPc v).flags = s.flags := rfl
@[simp] theorem State.setPc_halted (s : State) (v : Word) : (s.setPc v).halted = s.halted := rfl
@[simp] theorem State.setPc_mem (s : State) (v : Word) : (s.setPc v).mem = s.mem := rfl
@[simp] theorem State.setPc_memSize (s : State) (v : Word) : (s.setPc v).memSize = s.memSize := rfl
@[simp] theorem State.setPc_control (s : State) (v : Word) : (s.setPc v).control = s.control := rfl
@[simp] theorem State.setPc_envCount (s : State) (v : Word) : (s.setPc v).envCount = s.envCount := rfl

@[simp] theorem State.setSp_regs (s : State) (v : Word) : (s.setSp v).regs = s.regs := rfl
@[simp] theorem State.setSp_pc (s : State) (v : Word) : (s.setSp v).pc = s.pc := rfl
@[simp] theorem State.setSp_sp (s : State) (v : Word) : (s.setSp v).sp = v := rfl
@[simp] theorem State.setSp_flags (s : State) (v : Word) : (s.setSp v).flags = s.flags := rfl
@[simp] theorem State.setSp_halted (s : State) (v : Word) : (s.setSp v).halted = s.halted := rfl
@[simp] theorem State.setSp_mem (s : State) (v : Word) : (s.setSp v).mem = s.mem := rfl
@[simp] theorem State.setSp_memSize (s : State) (v : Word) : (s.setSp v).memSize = s.memSize := rfl
@[simp] theorem State.setSp_control (s : State) (v : Word) : (s.setSp v).control = s.control := rfl
@[simp] theorem State.setSp_envCount (s : State) (v : Word) : (s.setSp v).envCount = s.envCount := rfl

@[simp] theorem State.setFlags_regs (s : State) (v : Flags) : (s.setFlags v).regs = s.regs := rfl
@[simp] theorem State.setFlags_pc (s : State) (v : Flags) : (s.setFlags v).pc = s.pc := rfl
@[simp] theorem State.setFlags_sp (s : State) (v : Flags) : (s.setFlags v).sp = s.sp := rfl
@[simp] theorem State.setFlags_flags (s : State) (v : Flags) : (s.setFlags v).flags = v := rfl
@[simp] theorem State.setFlags_halted (s : State) (v : Flags) : (s.setFlags v).halted = s.halted := rfl
@[simp] theorem State.setFlags_mem (s : State) (v : Flags) : (s.setFlags v).mem = s.mem := rfl
@[simp] theorem State.setFlags_memSize (s : State) (v : Flags) : (s.setFlags v).memSize = s.memSize := rfl
@[simp] theorem State.setFlags_control (s : State) (v : Flags) : (s.setFlags v).control = s.control := rfl
@[simp] theorem State.setFlags_envCount (s : State) (v : Flags) : (s.setFlags v).envCount = s.envCount := rfl

@[simp] theorem State.setHalted_regs (s : State) (v : Bool) : (s.setHalted v).regs = s.regs := rfl
@[simp] theorem State.setHalted_pc (s : State) (v : Bool) : (s.setHalted v).pc = s.pc := rfl
@[simp] theorem State.setHalted_sp (s : State) (v : Bool) : (s.setHalted v).sp = s.sp := rfl
@[simp] theorem State.setHalted_flags (s : State) (v : Bool) : (s.setHalted v).flags = s.flags := rfl
@[simp] theorem State.setHalted_halted (s : State) (v : Bool) : (s.setHalted v).halted = v := rfl
@[simp] theorem State.setHalted_mem (s : State) (v : Bool) : (s.setHalted v).mem = s.mem := rfl
@[simp] theorem State.setHalted_memSize (s : State) (v : Bool) : (s.setHalted v).memSize = s.memSize := rfl
@[simp] theorem State.setHalted_control (s : State) (v : Bool) : (s.setHalted v).control = s.control := rfl
@[simp] theorem State.setHalted_envCount (s : State) (v : Bool) : (s.setHalted v).envCount = s.envCount := rfl

@[simp] theorem State.setMem_regs (s : State) (v : Memory) : (s.setMem v).regs = s.regs := rfl
@[simp] theorem State.setMem_pc (s : State) (v : Memory) : (s.setMem v).pc = s.pc := rfl
@[simp] theorem State.setMem_sp (s : State) (v : Memory) : (s.setMem v).sp = s.sp := rfl
@[simp] theorem State.setMem_flags (s : State) (v : Memory) : (s.setMem v).flags = s.flags := rfl
@[simp] theorem State.setMem_halted (s : State) (v : Memory) : (s.setMem v).halted = s.halted := rfl
@[simp] theorem State.setMem_mem (s : State) (v : Memory) : (s.setMem v).mem = v := rfl
@[simp] theorem State.setMem_memSize (s : State) (v : Memory) : (s.setMem v).memSize = s.memSize := rfl
@[simp] theorem State.setMem_control (s : State) (v : Memory) : (s.setMem v).control = s.control := rfl
@[simp] theorem State.setMem_envCount (s : State) (v : Memory) : (s.setMem v).envCount = s.envCount := rfl

@[simp] theorem State.setControl_regs (s : State) (v : Control) : (s.setControl v).regs = s.regs := rfl
@[simp] theorem State.setControl_pc (s : State) (v : Control) : (s.setControl v).pc = s.pc := rfl
@[simp] theorem State.setControl_sp (s : State) (v : Control) : (s.setControl v).sp = s.sp := rfl
@[simp] theorem State.setControl_flags (s : State) (v : Control) : (s.setControl v).flags = s.flags := rfl
@[simp] theorem State.setControl_halted (s : State) (v : Control) : (s.setControl v).halted = s.halted := rfl
@[simp] theorem State.setControl_mem (s : State) (v : Control) : (s.setControl v).mem = s.mem := rfl
@[simp] theorem State.setControl_memSize (s : State) (v : Control) : (s.setControl v).memSize = s.memSize := rfl
@[simp] theorem State.setControl_control (s : State) (v : Control) : (s.setControl v).control = v := rfl
@[simp] theorem State.setControl_envCount (s : State) (v : Control) : (s.setControl v).envCount = s.envCount := rfl

@[simp] theorem State.countAnswer_regs (s : State) : s.countAnswer.regs = s.regs := rfl
@[simp] theorem State.countAnswer_pc (s : State) : s.countAnswer.pc = s.pc := rfl
@[simp] theorem State.countAnswer_sp (s : State) : s.countAnswer.sp = s.sp := rfl
@[simp] theorem State.countAnswer_flags (s : State) : s.countAnswer.flags = s.flags := rfl
@[simp] theorem State.countAnswer_halted (s : State) : s.countAnswer.halted = s.halted := rfl
@[simp] theorem State.countAnswer_mem (s : State) : s.countAnswer.mem = s.mem := rfl
@[simp] theorem State.countAnswer_memSize (s : State) : s.countAnswer.memSize = s.memSize := rfl
@[simp] theorem State.countAnswer_control (s : State) : s.countAnswer.control = s.control := rfl
@[simp] theorem State.countAnswer_envCount (s : State) : s.countAnswer.envCount = s.envCount + 1 := rfl

/-! ## Reading a register -/

@[simp] theorem State.reg_setReg_same (s : State) (r : Reg) (v : Word) : (s.setReg r v).reg r = v := by
  simp [State.reg, State.setReg]

theorem State.reg_setReg_other (s : State) {r q : Reg} (v : Word) (h : q ≠ r) : (s.setReg r v).reg q = s.reg q := by
  have h' : r.val ≠ q.val := fun e => h (Fin.ext e.symm)
  simp [State.reg, State.setReg, h']

/-- Reading after writing a register. -/
theorem State.reg_setReg (s : State) (r q : Reg) (v : Word) :
    (s.setReg r v).reg q = if q = r then v else s.reg q := by
  split
  · subst_vars; simp
  · exact s.reg_setReg_other v ‹_›

/-- Two states with the same registers read the same in every register. -/
theorem State.reg_congr {s t : State} (h : t.regs = s.regs) (r : Reg) : t.reg r = s.reg r := by
  simp [State.reg, h]

@[simp] theorem State.reg_setPc (s : State) (v : Word) (q : Reg) : (s.setPc v).reg q = s.reg q := rfl
@[simp] theorem State.reg_setSp (s : State) (v : Word) (q : Reg) : (s.setSp v).reg q = s.reg q := rfl
@[simp] theorem State.reg_setFlags (s : State) (v : Flags) (q : Reg) : (s.setFlags v).reg q = s.reg q := rfl
@[simp] theorem State.reg_setHalted (s : State) (v : Bool) (q : Reg) : (s.setHalted v).reg q = s.reg q := rfl
@[simp] theorem State.reg_setMem (s : State) (v : Memory) (q : Reg) : (s.setMem v).reg q = s.reg q := rfl
@[simp] theorem State.reg_setControl (s : State) (v : Control) (q : Reg) : (s.setControl v).reg q = s.reg q := rfl
@[simp] theorem State.reg_countAnswer (s : State) (q : Reg) : s.countAnswer.reg q = s.reg q := rfl

/-- Two register files that agree in every register are one. -/
theorem regs_ext {v w : Vector Word 16} (h : ∀ r : Reg, v[r.val] = w[r.val]) : v = w := by
  apply Vector.ext
  intro i hi
  exact h ⟨i, hi⟩

end Sys2Proof.Machine
end

