-- ==== Sys2Proof/Laws/Environment.lean ====
section
/-! SUPPORT. What the environment's answers leave alone. -/

namespace Sys2Proof.Machine

/-- The environment's stores keep the canonical form. -/
theorem wf_storeAllowed (n : Nat) (may : Nat → Bool) (m : Memory) (l : List Host.Cell) (h : m.wf = true) :
    (storeAllowed n may m l).wf = true := by
  induction l generalizing m with
  | nil => exact h
  | cons c rest ih =>
    obtain ⟨a, b⟩ := c
    rw [storeAllowed]
    apply ih
    split
    · exact m.wf_write a b h
    · exact h

/-- The environment's stores stay inside memory. -/
theorem below_storeAllowed (n : Nat) (may : Nat → Bool) (m : Memory) (l : List Host.Cell)
    (h : m.below n = true) : (storeAllowed n may m l).below n = true := by
  induction l generalizing m with
  | nil => exact h
  | cons c rest ih =>
    obtain ⟨a, b⟩ := c
    rw [storeAllowed]
    apply ih
    split
    · exact m.below_write a b h (by rename_i e; exact e.1)
    · exact h

/-- A byte the environment may not write is unchanged. -/
theorem read_storeAllowed_other (n : Nat) (may : Nat → Bool) (m : Memory) (l : List Host.Cell) (q : Nat)
    (h : may q = false) : (storeAllowed n may m l).read q = m.read q := by
  induction l generalizing m with
  | nil => rfl
  | cons c rest ih =>
    obtain ⟨a, b⟩ := c
    rw [storeAllowed, ih]
    split
    · rename_i e
      exact Memory.read_write_other m b (fun e' => by rw [e', e.2] at h; simp at h)
    · rfl

/-- An environment that may write nothing leaves memory as it is. -/
theorem storeAllowed_none (n : Nat) (m : Memory) (l : List Host.Cell) :
    storeAllowed n (fun _ => false) m l = m := by
  induction l generalizing m with
  | nil => rfl
  | cons c rest ih =>
    obtain ⟨a, b⟩ := c
    simp [storeAllowed, ih]

/-- All an answer to a system call can do when it gives a next state (60_exceptions.md R282 to R286). -/
theorem State.answerSysCall_next {s t : State} {number arg1 arg2 arg3 : Word}
    (h : s.answerSysCall number arg1 arg2 arg3 = .next t) :
    (sysName number = some .exit ∧ t = s.endRun (some arg1)) ∨
      (sysName number ≠ some .exit ∧
        t = s.sysResume (sysMayWrite (sysName number) arg2 arg3 (Config.sysReply s)) (Config.sysReply s)) := by
  unfold State.answerSysCall at h
  simp only at h
  split at h
  · injection h with h; exact .inl ⟨‹_›, h.symm⟩
  · split at h
    · simp at h
    · split at h
      · injection h with h; exact .inr ⟨‹_›, h.symm⟩
      · simp at h

/-- A system call that resumes preserves everything but R0, R1 and the bytes it may write (60_exceptions.md R284). -/
theorem State.sysResume_keeps (s : State) (may : Nat → Bool) (reply : SysReply) :
    (s.sysResume may reply).pc = s.pc ∧ (s.sysResume may reply).sp = s.sp ∧
      (s.sysResume may reply).flags = s.flags ∧ (s.sysResume may reply).halted = s.halted ∧
      (s.sysResume may reply).memSize = s.memSize ∧ (s.sysResume may reply).control = .machine ∧
      (s.sysResume may reply).mem = storeAllowed s.memSize may s.mem reply.stores :=
  ⟨rfl, rfl, rfl, rfl, rfl, rfl, rfl⟩

/-- The registers after a system call that resumes (60_exceptions.md R282, R284). -/
theorem State.sysResume_reg (s : State) (may : Nat → Bool) (reply : SysReply) (r : Reg) :
    (s.sysResume may reply).reg r = if r = 1 then reply.error else if r = 0 then reply.result else s.reg r := by
  simp [State.sysResume, State.resume, State.reg_setReg]

end Sys2Proof.Machine
end

