-- ==== Sys2Proof/Laws/Fetch.lean ====
section
/-! SUPPORT. What fetching answers, byte by byte. -/

namespace Sys2Proof.Machine

theorem State.fetchByte_inside {s : State} {addr : Word} (h : addr.toNat < s.memSize) :
    s.fetchByte addr = .ok (s.mem.read addr.toNat) := by
  simp [State.fetchByte, h]

theorem State.fetchByte_outside {s : State} {addr : Word} (h : s.memSize ≤ addr.toNat) :
    s.fetchByte addr = .error (.fetchFault addr) := by
  simp [State.fetchByte, Nat.not_lt.mpr h]

/-- When the fetch of a byte answers, and with what (20_memory.md R59). -/
theorem State.fetchByte_ok {s : State} {addr : Word} {b : Byte} :
    s.fetchByte addr = .ok b ↔ addr.toNat < s.memSize ∧ s.mem.read addr.toNat = b := by
  unfold State.fetchByte
  split
  · simp [*]
  · simp [*]

/-- The address after `n + 1` bytes is the address after `n` bytes of the next one. -/
theorem add_ofNat_succ (a : Word) (n : Nat) : a + BitVec.ofNat 32 (n + 1) = a + 1#32 + BitVec.ofNat 32 n := by
  rw [BitVec.add_assoc]
  congr 1
  apply BitVec.eq_of_toNat_eq
  simp [Nat.add_comm]

/-- When the fetch of operand bytes answers, and with what (40_execution_cycle.md R133). -/
theorem State.fetchBytes_ok {s : State} {n : Nat} {addr : Word} {bs : List Byte} :
    s.fetchBytes n addr = .ok bs ↔
      bs.length = n ∧ ∀ k (h : k < bs.length), s.fetchByte (addr + BitVec.ofNat 32 k) = .ok bs[k] := by
  induction n generalizing addr bs with
  | zero => cases bs <;> simp [State.fetchBytes]
  | succ n ih =>
    rw [State.fetchBytes]
    constructor
    · intro h
      split at h
      · simp at h
      · rename_i b hb
        split at h
        · simp at h
        · rename_i tail ht
          injection h with h
          subst h
          obtain ⟨hl, hk⟩ := ih.mp ht
          refine ⟨by simp [hl], fun k h => ?_⟩
          cases k with
          | zero => simpa using hb
          | succ k => rw [add_ofNat_succ]; exact hk k (by simpa using h)
    · rintro ⟨hl, hk⟩
      cases bs with
      | nil => simp at hl
      | cons b tail =>
        have h0 := hk 0 (by simp)
        simp only [BitVec.add_zero, List.getElem_cons_zero] at h0
        have ht : s.fetchBytes n (addr + 1#32) = .ok tail := by
          refine ih.mpr ⟨by simpa using hl, fun k h => ?_⟩
          rw [← add_ofNat_succ]
          exact hk (k + 1) (by simpa using h)
        simp [h0, ht]

/-- The first operand byte outside memory is the fault (40_execution_cycle.md R133). -/
theorem State.fetchBytes_outside {s : State} {n k : Nat} {addr : Word} (hk : k < n)
    (h : ∀ j, j < k → (addr + BitVec.ofNat 32 j).toNat < s.memSize)
    (h' : s.memSize ≤ (addr + BitVec.ofNat 32 k).toNat) :
    s.fetchBytes n addr = .error (.fetchFault (addr + BitVec.ofNat 32 k)) := by
  induction n generalizing addr k with
  | zero => omega
  | succ n ih =>
    rw [State.fetchBytes]
    cases k with
    | zero => simp only [BitVec.add_zero] at h' ⊢; rw [State.fetchByte_outside h']
    | succ k =>
      have h0 := h 0 (by omega)
      simp only [BitVec.add_zero] at h0
      rw [State.fetchByte_inside h0]
      simp only
      rw [ih (addr := addr + 1#32) (k := k) (by omega)]
      · simp only [add_ofNat_succ addr k]
      · intro j hj; rw [← add_ofNat_succ]; exact h _ (by omega)
      · rw [← add_ofNat_succ]; exact h'

/-- A running machine executes what it fetches (40_execution_cycle.md R130). -/
theorem step_of_running {s : State} (h : s.control = .machine) (h' : s.halted = false) :
    step s = match s.fetch with
      | .error f => .fault f
      | .ok i => exec i s := by
  unfold step
  rw [h]
  simp only [h']
  rfl

end Sys2Proof.Machine
end

