-- ==== Sys2Proof/Laws/Flags.lean ====
section
/-! SUPPORT. The parts of the flag helpers' results. -/

namespace Sys2Proof.Machine

@[simp] theorem addFlags_value (a b : Word) : (addFlags a b).value = a + b := rfl
@[simp] theorem subFlags_value (a b : Word) : (subFlags a b).value = a - b := rfl
@[simp] theorem logicFlags_value (r : Word) : (logicFlags r).value = r := rfl

@[simp] theorem flagsOf_c (r : Word) (c v : Bool) : (flagsOf r c v).c = c := rfl
@[simp] theorem flagsOf_v (r : Word) (c v : Bool) : (flagsOf r c v).v = v := rfl

/-- `SetZN(r)`: Z (40_execution_cycle.md R139). -/
theorem flagsOf_z_iff (r : Word) (c v : Bool) : (flagsOf r c v).z = true ↔ r = 0#32 := by simp [flagsOf]

/-- `SetZN(r)`: N (40_execution_cycle.md R139). -/
theorem flagsOf_n_iff (r : Word) (c v : Bool) : (flagsOf r c v).n = true ↔ r.toInt < 0 := by
  simp [flagsOf, BitVec.msb_eq_toInt]

end Sys2Proof.Machine
end

