-- ==== Sys2Proof/Laws/Ops.lean ====
section
/-! SUPPORT. For each shared operation, once, everything it can do: when it answers, and with what. -/

namespace Sys2Proof.Machine

/-! ## Access -/

theorem State.accessFault_eq_none (s : State) (addr : Word) (w : Width) (kind : AccessKind) :
    s.accessFault addr w kind = none ↔ addr.toNat % w.bytes = 0 ∧ addr.toNat + w.bytes ≤ s.memSize := by
  unfold State.accessFault
  split
  · simp_all
  split
  · constructor
    · intro h; simp at h
    · intro h; omega
  · constructor
    · intro _; constructor <;> omega
    · intro _; rfl

/-- A misaligned access reports its alignment, whatever its range (20_memory.md R57, R58). -/
theorem State.accessFault_misaligned (s : State) (addr : Word) (w : Width) (kind : AccessKind)
    (h : addr.toNat % w.bytes ≠ 0) : s.accessFault addr w kind = some (.alignmentFault addr) := by
  simp [State.accessFault, h]

/-- An aligned access that does not lie inside memory reports its range (20_memory.md R57, R58). -/
theorem State.accessFault_outside (s : State) (addr : Word) (w : Width) (kind : AccessKind)
    (h : addr.toNat % w.bytes = 0) (h' : s.memSize < addr.toNat + w.bytes) :
    s.accessFault addr w kind = some (.memoryFault addr w.bytes kind) := by
  simp [State.accessFault, h, h']

/-- The address of a byte of an aligned access does not wrap. -/
theorem aligned_add_toNat {addr : Word} {w : Width} {k : Nat} (h : addr.toNat % w.bytes = 0) (hk : k < w.bytes) :
    (addr + BitVec.ofNat 32 k).toNat = addr.toNat + k := by
  have := addr.isLt
  cases w <;> simp only [Width.bytes] at h hk <;> rw [BitVec.toNat_add, BitVec.toNat_ofNat] <;> omega

/-- When a read answers, and with what (20_memory.md R57). -/
theorem State.memRead_ok (s : State) (addr : Word) (w : Width) (v : Word) :
    s.memRead addr w = .ok v ↔
      (addr.toNat % w.bytes = 0 ∧ addr.toNat + w.bytes ≤ s.memSize) ∧ v = s.mem.readWidth addr.toNat w := by
  unfold State.memRead
  rw [← s.accessFault_eq_none addr w .read]
  cases s.accessFault addr w .read with
  | none => simp [eq_comm]
  | some f => simp

/-- When a write answers, and with what (20_memory.md R58). -/
theorem State.memWrite_ok (s : State) (addr : Word) (w : Width) (v : Word) (t : State) :
    s.memWrite addr w v = .ok t ↔
      (addr.toNat % w.bytes = 0 ∧ addr.toNat + w.bytes ≤ s.memSize) ∧
        t = s.setMem (s.mem.writeBytes addr.toNat (w.split v)) := by
  unfold State.memWrite
  rw [← s.accessFault_eq_none addr w .write]
  cases s.accessFault addr w .write with
  | none => simp [eq_comm]
  | some f => simp

/-- Why a read faults. -/
theorem State.memRead_error (s : State) (addr : Word) (w : Width) (f : Fault) :
    s.memRead addr w = .error f ↔ s.accessFault addr w .read = some f := by
  unfold State.memRead
  cases s.accessFault addr w .read <;> simp

/-- Why a write faults. -/
theorem State.memWrite_error (s : State) (addr : Word) (w : Width) (v : Word) (f : Fault) :
    s.memWrite addr w v = .error f ↔ s.accessFault addr w .write = some f := by
  unfold State.memWrite
  cases s.accessFault addr w .write <;> simp

/-! ## Stack -/

/-- When a push answers, and with what (20_memory.md R61). -/
theorem State.push_ok (s : State) (v : Word) (t : State) :
    s.push v = .ok t ↔
      ((s.sp - 4#32).toNat % 4 = 0 ∧ (s.sp - 4#32).toNat + 4 ≤ s.memSize) ∧
        t = (s.setMem (s.mem.writeBytes (s.sp - 4#32).toNat (Width.word.split v))).setSp (s.sp - 4#32) := by
  unfold State.push
  cases h : s.memWrite (s.sp - 4#32) .word v with
  | error f =>
    have hn : ¬∃ t, s.memWrite (s.sp - 4#32) .word v = .ok t := by rw [h]; simp
    simp only [State.memWrite_ok] at hn
    constructor
    · intro e; simp at e
    · intro e; exact (hn ⟨_, e.1, rfl⟩).elim
  | ok u =>
    rw [State.memWrite_ok] at h
    obtain ⟨ha, rfl⟩ := h
    constructor
    · intro e; exact ⟨ha, (Except.ok.inj e).symm⟩
    · rintro ⟨-, rfl⟩; rfl

/-- Why a push faults: its write does (20_memory.md R61). -/
theorem State.push_error (s : State) (v : Word) (f : Fault) :
    s.push v = .error f ↔ s.accessFault (s.sp - 4#32) .word .write = some f := by
  rw [← s.memWrite_error _ _ v]
  unfold State.push
  cases s.memWrite (s.sp - 4#32) .word v <;> simp

/-- When a pop answers, and with what (20_memory.md R62). -/
theorem State.pop_ok (s : State) (v : Word) (t : State) :
    s.pop = .ok (v, t) ↔
      (s.sp.toNat % 4 = 0 ∧ s.sp.toNat + 4 ≤ s.memSize) ∧
        v = s.mem.readWidth s.sp.toNat .word ∧ t = s.setSp (s.sp + 4#32) := by
  unfold State.pop
  cases h : s.memRead s.sp .word with
  | error f =>
    have hn : ¬∃ v, s.memRead s.sp .word = .ok v := by rw [h]; simp
    simp only [State.memRead_ok] at hn
    constructor
    · intro e; simp at e
    · intro e; exact (hn ⟨_, e.1, rfl⟩).elim
  | ok u =>
    rw [State.memRead_ok] at h
    obtain ⟨ha, rfl⟩ := h
    constructor
    · intro e
      simp only [Except.ok.injEq, Prod.mk.injEq] at e
      exact ⟨ha, e.1.symm, e.2.symm⟩
    · rintro ⟨-, rfl, rfl⟩; rfl

/-- Why a pop faults: its read does (20_memory.md R62). -/
theorem State.pop_error (s : State) (f : Fault) :
    s.pop = .error f ↔ s.accessFault s.sp .word .read = some f := by
  rw [← s.memRead_error]
  unfold State.pop
  cases s.memRead s.sp .word <;> simp

/-- What any number of pushes leaves alone, and that it keeps memory's form and bounds. -/
theorem State.pushAll_keeps {s t : State} {l : List Reg} (h : s.pushAll l = .ok t) :
    t.regs = s.regs ∧ t.pc = s.pc ∧ t.flags = s.flags ∧ t.halted = s.halted ∧ t.memSize = s.memSize ∧
      t.control = s.control ∧ t.envCount = s.envCount ∧ (s.mem.wf = true → t.mem.wf = true) ∧
      (s.mem.below s.memSize = true → t.mem.below s.memSize = true) := by
  induction l generalizing s with
  | nil =>
    rw [State.pushAll, Except.ok.injEq] at h
    subst h; simp
  | cons r rest ih =>
    rw [State.pushAll] at h
    cases hp : s.push (s.reg r) with
    | error f => rw [hp] at h; simp at h
    | ok u =>
      rw [hp] at h
      have ih := ih h
      obtain ⟨⟨-, hb⟩, rfl⟩ := (s.push_ok _ u).mp hp
      simp only [State.setSp_regs, State.setMem_regs, State.setSp_pc, State.setMem_pc, State.setSp_flags,
        State.setMem_flags, State.setSp_halted, State.setMem_halted, State.setSp_memSize, State.setMem_memSize,
        State.setSp_control, State.setMem_control, State.setSp_envCount, State.setMem_envCount, State.setSp_mem,
        State.setMem_mem] at ih
      obtain ⟨h1, h2, h3, h4, h5, h6, h7, h8, h9⟩ := ih
      exact ⟨h1, h2, h3, h4, h5, h6, h7, fun w => h8 (Memory.wf_writeBytes _ _ _ w),
        fun w => h9 (Memory.below_writeBytes _ _ _ w (by rw [Width.split_length]; exact hb))⟩

/-- What any number of pops leaves alone. -/
theorem State.popAll_keeps {s t : State} {l : List Reg} (h : s.popAll l = .ok t) :
    t.pc = s.pc ∧ t.flags = s.flags ∧ t.halted = s.halted ∧ t.mem = s.mem ∧ t.memSize = s.memSize ∧
      t.control = s.control ∧ t.envCount = s.envCount ∧ ∀ r, r ∉ l → t.reg r = s.reg r := by
  induction l generalizing s with
  | nil =>
    rw [State.popAll, Except.ok.injEq] at h
    subst h; simp
  | cons r rest ih =>
    rw [State.popAll] at h
    cases hp : s.pop with
    | error f => rw [hp] at h; simp at h
    | ok p =>
      obtain ⟨v, u⟩ := p
      rw [hp] at h
      obtain ⟨h1, h2, h3, h4, h5, h6, h7, h8⟩ := ih h
      obtain ⟨-, -, rfl⟩ := (s.pop_ok v u).mp hp
      refine ⟨h1, h2, h3, h4, h5, h6, h7, fun q hq => ?_⟩
      rw [h8 q (fun e => hq (by simp [e])), State.reg_setReg_other _ _ (fun e => hq (by simp [e])), State.reg_setSp]

/-! ## One instruction -/

/-- The body runs when the condition holds (40_execution_cycle.md R137). -/
theorem execute_of_holds {c : Cond} {l : Layout} {s : State} {body : Word → Except Fault State}
    (h : condHolds c s.flags = true) :
    execute c l s body =
      match body (s.pc + BitVec.ofNat 32 l.len) with
      | .ok t => .next t
      | .error f => .fault f :=
  (if_pos h).trans (by cases body (s.pc + BitVec.ofNat 32 l.len) <;> rfl)

/-- A false condition changes `pc` alone (40_execution_cycle.md R136). -/
theorem execute_of_not_holds {c : Cond} {l : Layout} {s : State} {body : Word → Except Fault State}
    (h : condHolds c s.flags = false) :
    execute c l s body = .next (s.setPc (s.pc + BitVec.ofNat 32 l.len)) := by
  simp [execute, h]

/-- All an instruction can do when it gives a next state. -/
theorem execute_next {c : Cond} {l : Layout} {s t : State} {body : Word → Except Fault State}
    (h : execute c l s body = .next t) :
    (condHolds c s.flags = true ∧ body (s.pc + BitVec.ofNat 32 l.len) = .ok t) ∨
      (condHolds c s.flags = false ∧ t = s.setPc (s.pc + BitVec.ofNat 32 l.len)) := by
  cases hc : condHolds c s.flags with
  | false =>
    rw [execute_of_not_holds hc] at h
    injection h with h
    exact .inr ⟨rfl, h.symm⟩
  | true =>
    rw [execute_of_holds hc] at h
    cases hb : body (s.pc + BitVec.ofNat 32 l.len) with
    | ok u =>
      rw [hb] at h
      injection h with h
      exact .inl ⟨rfl, by rw [h]⟩
    | error f => rw [hb] at h; simp at h

/-- All an instruction can do when it faults: its body raised the fault. -/
theorem execute_fault {c : Cond} {l : Layout} {s : State} {body : Word → Except Fault State} {f : Fault}
    (h : execute c l s body = .fault f) :
    condHolds c s.flags = true ∧ body (s.pc + BitVec.ofNat 32 l.len) = .error f := by
  cases hc : condHolds c s.flags with
  | false => rw [execute_of_not_holds hc] at h; simp at h
  | true =>
    rw [execute_of_holds hc] at h
    cases hb : body (s.pc + BitVec.ofNat 32 l.len) with
    | ok u => rw [hb] at h; simp at h
    | error g =>
      rw [hb] at h
      injection h with h
      exact ⟨rfl, by rw [h]⟩

/-- No instruction is refused. -/
theorem execute_ne_refused (c : Cond) (l : Layout) (s : State) (body : Word → Except Fault State) (r : Refusal) :
    execute c l s body ≠ .refused r := by
  unfold execute
  simp only
  split
  · split <;> simp
  · simp

end Sys2Proof.Machine
end

