-- ==== Sys2Proof/Laws/Instructions.lean ====
section
/-! SUPPORT. For the operations that the instructions of one family share, once, everything each can do. -/

namespace Sys2Proof.Machine

/-- When a load completes, and with what (46_memory_ops.md R215). -/
theorem State.load_ok {s t : State} {reg base : Reg} {off : BitVec 8} {w : Width} {extend : Word → Word} {npc : Word} :
    s.load reg base off w extend npc = .ok t ↔
      ((effectiveAddress s base off).toNat % w.bytes = 0 ∧
        (effectiveAddress s base off).toNat + w.bytes ≤ s.memSize) ∧
        t = s.writeReg reg (extend (s.mem.readWidth (effectiveAddress s base off).toNat w)) npc := by
  unfold State.load
  cases h : s.memRead (effectiveAddress s base off) w with
  | error f =>
    have hn : ¬∃ v, s.memRead (effectiveAddress s base off) w = .ok v := by rw [h]; simp
    simp only [State.memRead_ok] at hn
    exact ⟨fun e => by simp at e, fun e => (hn ⟨_, e.1, rfl⟩).elim⟩
  | ok v =>
    obtain ⟨ha, rfl⟩ := (s.memRead_ok _ _ _).mp h
    exact ⟨fun e => ⟨ha, (Except.ok.inj e).symm⟩, fun e => by rw [e.2]⟩

/-- Why a load faults: its read does. -/
theorem State.load_error {s : State} {reg base : Reg} {off : BitVec 8} {w : Width} {extend : Word → Word} {npc : Word}
    {f : Fault} :
    s.load reg base off w extend npc = .error f ↔ s.accessFault (effectiveAddress s base off) w .read = some f := by
  rw [← s.memRead_error]
  unfold State.load
  cases s.memRead (effectiveAddress s base off) w <;> simp

/-- When a store completes, and with what (46_memory_ops.md R215, 20_memory.md R58). -/
theorem State.store_ok {s t : State} {reg base : Reg} {off : BitVec 8} {w : Width} {npc : Word} :
    s.store reg base off w npc = .ok t ↔
      ((effectiveAddress s base off).toNat % w.bytes = 0 ∧
        (effectiveAddress s base off).toNat + w.bytes ≤ s.memSize) ∧
        t = (s.setMem (s.mem.writeBytes (effectiveAddress s base off).toNat (w.split (s.reg reg)))).setPc npc := by
  unfold State.store
  cases h : s.memWrite (effectiveAddress s base off) w (s.reg reg) with
  | error f =>
    have hn : ¬∃ u, s.memWrite (effectiveAddress s base off) w (s.reg reg) = .ok u := by rw [h]; simp
    simp only [State.memWrite_ok] at hn
    exact ⟨fun e => by simp at e, fun e => (hn ⟨_, e.1, rfl⟩).elim⟩
  | ok u =>
    obtain ⟨ha, rfl⟩ := (s.memWrite_ok _ _ _ _).mp h
    exact ⟨fun e => ⟨ha, (Except.ok.inj e).symm⟩, fun e => by rw [e.2]⟩

/-- Why a store faults: its write does. -/
theorem State.store_error {s : State} {reg base : Reg} {off : BitVec 8} {w : Width} {npc : Word} {f : Fault} :
    s.store reg base off w npc = .error f ↔ s.accessFault (effectiveAddress s base off) w .write = some f := by
  rw [← s.memWrite_error _ _ (s.reg reg)]
  unfold State.store
  cases s.memWrite (effectiveAddress s base off) w (s.reg reg) <;> simp

/-- When a call completes, and with what: the push of the return address, then the target (48_control_flow.md R247). -/
theorem State.callTo_ok {s t : State} {npc target : Word} :
    s.callTo npc target = .ok t ↔ ∃ u, s.push npc = .ok u ∧ t = u.setPc target := by
  unfold State.callTo
  cases s.push npc <;> simp [eq_comm]

/-- Why a call faults: its push does. -/
theorem State.callTo_error {s : State} {npc target : Word} {f : Fault} :
    s.callTo npc target = .error f ↔ s.accessFault (s.sp - 4#32) .word .write = some f := by
  rw [← s.push_error npc]
  unfold State.callTo
  cases s.push npc <;> simp

/-- What a push leaves alone, and that it keeps memory's form and bounds. -/
theorem State.push_keeps {s t : State} {v : Word} (h : s.push v = .ok t) :
    t.regs = s.regs ∧ t.pc = s.pc ∧ t.flags = s.flags ∧ t.halted = s.halted ∧ t.memSize = s.memSize ∧
      t.control = s.control ∧ t.envCount = s.envCount ∧ (s.mem.wf = true → t.mem.wf = true) ∧
      (s.mem.below s.memSize = true → t.mem.below s.memSize = true) := by
  obtain ⟨ha, rfl⟩ := (s.push_ok v t).mp h
  refine ⟨rfl, rfl, rfl, rfl, rfl, rfl, rfl, fun w => Memory.wf_writeBytes _ _ _ w, fun w => ?_⟩
  exact Memory.below_writeBytes _ _ _ w (by rw [Width.split_length]; exact ha.2)

end Sys2Proof.Machine
end

