-- ==== Sys2Proof/Laws/Operands.lean ====
section
/-! SUPPORT. What each operand form is worth, as a number. -/

namespace Sys2Proof.Machine

@[simp] theorem immZero8_toNat (v : BitVec 8) : (immZero8 v).toNat = v.toNat := by
  simp only [immZero8, BitVec.toNat_setWidth]; omega

@[simp] theorem immZero16_toNat (v : BitVec 16) : (immZero16 v).toNat = v.toNat := by
  simp only [immZero16, BitVec.toNat_setWidth]; omega

@[simp] theorem immSign16_toInt (v : BitVec 16) : (immSign16 v).toInt = v.toInt :=
  BitVec.toInt_signExtend_of_le (by omega)

@[simp] theorem target24_toNat (v : BitVec 24) : (target24 v).toNat = v.toNat := by
  simp only [target24, BitVec.toNat_setWidth]; omega

theorem highHalf_toNat (v : BitVec 16) (old : Word) :
    (highHalf v old).toNat = v.toNat * 2 ^ 16 + old.toNat % 2 ^ 16 := by
  have h : old.toNat % 2 ^ 16 < 2 ^ 16 := Nat.mod_lt _ (by decide)
  have e : (v ++ old.extractLsb' 0 16).toNat = v.toNat <<< 16 ||| old.toNat % 2 ^ 16 := by
    rw [BitVec.toNat_append, BitVec.extractLsb'_toNat, Nat.shiftRight_zero]
  rw [highHalf]
  exact e.trans (by rw [← Nat.shiftLeft_add_eq_or_of_lt h, Nat.shiftLeft_eq])

/-- A signed offset added to a word: the sum wraps (20_memory.md R72). -/
theorem add_signExtend8_toNat (x : Word) (off : BitVec 8) :
    ((x + off.signExtend 32).toNat : Int) = (x.toNat + off.toInt) % 2 ^ 32 := by
  have h : ((off.signExtend 32).toNat : Int) = off.toInt % 2 ^ 32 := by
    have e := BitVec.toInt_eq_toNat_cond (off.signExtend 32)
    rw [BitVec.toInt_signExtend_of_le (by omega)] at e
    have := (off.signExtend 32).isLt
    rw [e]; split <;> omega
  rw [BitVec.toNat_add]
  push_cast
  rw [h]; omega

theorem effectiveAddress_toNat (s : State) (base : Reg) (off : BitVec 8) :
    ((effectiveAddress s base off).toNat : Int) = ((s.reg base).toNat + off.toInt) % 2 ^ 32 :=
  add_signExtend8_toNat _ _

theorem targetRel8_toNat (npc : Word) (v : BitVec 8) :
    ((targetRel8 npc v).toNat : Int) = (npc.toNat + v.toInt) % 2 ^ 32 :=
  add_signExtend8_toNat _ _

@[simp] theorem shiftCount_eq (v : Word) : shiftCount v = v.toNat % 32 := by
  simp [shiftCount]

theorem mem_maskDown (m : BitVec 16) (r : Reg) : r ∈ maskDown m ↔ m.getLsbD r.val = true := by
  rw [maskDown, List.mem_filter]
  exact ⟨fun h => h.2, fun h => ⟨by clear h; revert r; decide, h⟩⟩

theorem mem_maskUp (m : BitVec 16) (r : Reg) : r ∈ maskUp m ↔ m.getLsbD r.val = true := by
  rw [maskUp, List.mem_filter]
  exact ⟨fun h => h.2, fun h => ⟨by clear h; revert r; decide, h⟩⟩

theorem pairwise_maskDown (m : BitVec 16) : (maskDown m).Pairwise (fun a b => b < a) :=
  List.Pairwise.filter _ (by decide)

theorem pairwise_maskUp (m : BitVec 16) : (maskUp m).Pairwise (fun a b => a < b) :=
  List.Pairwise.filter _ (by decide)

end Sys2Proof.Machine
end

