-- ==== Sys2Proof/Laws/PerInstr.lean ====
section
/-! SUPPORT. Statements about every instruction as syntax, one lemma per constructor. -/

namespace Sys2Proof.Laws

/-- An instruction is encoded in as many bytes as its layout fixes (30_encoding.md R84). -/
def EncodeLength.Statement (i : Instr) : Prop := (encode i).length = i.len

theorem EncodeLength.halt (c : Cond) : EncodeLength.Statement (.halt c) := rfl

theorem EncodeLength.syscall (c : Cond) : EncodeLength.Statement (.syscall c) := rfl

theorem EncodeLength.trap (c : Cond) (imm : BitVec 8) : EncodeLength.Statement (.trap c imm) := rfl

theorem EncodeLength.int (c : Cond) (imm : BitVec 8) : EncodeLength.Statement (.int c imm) := rfl

theorem EncodeLength.iret (c : Cond) : EncodeLength.Statement (.iret c) := rfl

theorem EncodeLength.mov (c : Cond) (reg1 reg2 : Reg) : EncodeLength.Statement (.mov c reg1 reg2) := rfl

theorem EncodeLength.movi (c : Cond) (reg : Reg) (imm : BitVec 16) : EncodeLength.Statement (.movi c reg imm) := rfl

theorem EncodeLength.limm (c : Cond) (reg : Reg) (imm : BitVec 32) : EncodeLength.Statement (.limm c reg imm) := rfl

theorem EncodeLength.movhi (c : Cond) (reg : Reg) (imm : BitVec 16) : EncodeLength.Statement (.movhi c reg imm) := rfl

theorem EncodeLength.swap (c : Cond) (reg1 reg2 : Reg) : EncodeLength.Statement (.swap c reg1 reg2) := rfl

theorem EncodeLength.lea (c : Cond) (reg base : Reg) (off : BitVec 8) : EncodeLength.Statement (.lea c reg base off) := rfl

theorem EncodeLength.add (c : Cond) (dest src1 src2 : Reg) : EncodeLength.Statement (.add c dest src1 src2) := rfl

theorem EncodeLength.sub (c : Cond) (dest src1 src2 : Reg) : EncodeLength.Statement (.sub c dest src1 src2) := rfl

theorem EncodeLength.mul (c : Cond) (dest src1 src2 : Reg) : EncodeLength.Statement (.mul c dest src1 src2) := rfl

theorem EncodeLength.div (c : Cond) (dest src1 src2 : Reg) : EncodeLength.Statement (.div c dest src1 src2) := rfl

theorem EncodeLength.mod (c : Cond) (dest src1 src2 : Reg) : EncodeLength.Statement (.mod c dest src1 src2) := rfl

theorem EncodeLength.divu (c : Cond) (dest src1 src2 : Reg) : EncodeLength.Statement (.divu c dest src1 src2) := rfl

theorem EncodeLength.modu (c : Cond) (dest src1 src2 : Reg) : EncodeLength.Statement (.modu c dest src1 src2) := rfl

theorem EncodeLength.inc (c : Cond) (reg : Reg) : EncodeLength.Statement (.inc c reg) := rfl

theorem EncodeLength.dec (c : Cond) (reg : Reg) : EncodeLength.Statement (.dec c reg) := rfl

theorem EncodeLength.neg (c : Cond) (reg : Reg) : EncodeLength.Statement (.neg c reg) := rfl

theorem EncodeLength.abs (c : Cond) (reg : Reg) : EncodeLength.Statement (.abs c reg) := rfl

theorem EncodeLength.addi (c : Cond) (dest src : Reg) (imm : BitVec 8) : EncodeLength.Statement (.addi c dest src imm) := rfl

theorem EncodeLength.subi (c : Cond) (dest src : Reg) (imm : BitVec 8) : EncodeLength.Statement (.subi c dest src imm) := rfl

theorem EncodeLength.and (c : Cond) (dest src1 src2 : Reg) : EncodeLength.Statement (.and c dest src1 src2) := rfl

theorem EncodeLength.or (c : Cond) (dest src1 src2 : Reg) : EncodeLength.Statement (.or c dest src1 src2) := rfl

theorem EncodeLength.xor (c : Cond) (dest src1 src2 : Reg) : EncodeLength.Statement (.xor c dest src1 src2) := rfl

theorem EncodeLength.not (c : Cond) (reg : Reg) : EncodeLength.Statement (.not c reg) := rfl

theorem EncodeLength.andi (c : Cond) (dest src : Reg) (imm : BitVec 8) : EncodeLength.Statement (.andi c dest src imm) := rfl

theorem EncodeLength.ori (c : Cond) (dest src : Reg) (imm : BitVec 8) : EncodeLength.Statement (.ori c dest src imm) := rfl

theorem EncodeLength.xori (c : Cond) (dest src : Reg) (imm : BitVec 8) : EncodeLength.Statement (.xori c dest src imm) := rfl

theorem EncodeLength.shl (c : Cond) (dest src1 src2 : Reg) : EncodeLength.Statement (.shl c dest src1 src2) := rfl

theorem EncodeLength.shr (c : Cond) (dest src1 src2 : Reg) : EncodeLength.Statement (.shr c dest src1 src2) := rfl

theorem EncodeLength.sar (c : Cond) (dest src1 src2 : Reg) : EncodeLength.Statement (.sar c dest src1 src2) := rfl

theorem EncodeLength.rol (c : Cond) (dest src1 src2 : Reg) : EncodeLength.Statement (.rol c dest src1 src2) := rfl

theorem EncodeLength.ror (c : Cond) (dest src1 src2 : Reg) : EncodeLength.Statement (.ror c dest src1 src2) := rfl

theorem EncodeLength.shli (c : Cond) (dest src : Reg) (imm : BitVec 5) : EncodeLength.Statement (.shli c dest src imm) := rfl

theorem EncodeLength.shri (c : Cond) (dest src : Reg) (imm : BitVec 5) : EncodeLength.Statement (.shri c dest src imm) := rfl

theorem EncodeLength.sari (c : Cond) (dest src : Reg) (imm : BitVec 5) : EncodeLength.Statement (.sari c dest src imm) := rfl

theorem EncodeLength.load (c : Cond) (reg base : Reg) (off : BitVec 8) : EncodeLength.Statement (.load c reg base off) := rfl

theorem EncodeLength.store (c : Cond) (reg base : Reg) (off : BitVec 8) : EncodeLength.Statement (.store c reg base off) := rfl

theorem EncodeLength.loadb (c : Cond) (reg base : Reg) (off : BitVec 8) : EncodeLength.Statement (.loadb c reg base off) := rfl

theorem EncodeLength.storeb (c : Cond) (reg base : Reg) (off : BitVec 8) : EncodeLength.Statement (.storeb c reg base off) := rfl

theorem EncodeLength.loadh (c : Cond) (reg base : Reg) (off : BitVec 8) : EncodeLength.Statement (.loadh c reg base off) := rfl

theorem EncodeLength.storeh (c : Cond) (reg base : Reg) (off : BitVec 8) : EncodeLength.Statement (.storeh c reg base off) := rfl

theorem EncodeLength.loadsb (c : Cond) (reg base : Reg) (off : BitVec 8) : EncodeLength.Statement (.loadsb c reg base off) := rfl

theorem EncodeLength.loadsh (c : Cond) (reg base : Reg) (off : BitVec 8) : EncodeLength.Statement (.loadsh c reg base off) := rfl

theorem EncodeLength.push (c : Cond) (reg : Reg) : EncodeLength.Statement (.push c reg) := rfl

theorem EncodeLength.pop (c : Cond) (reg : Reg) : EncodeLength.Statement (.pop c reg) := rfl

theorem EncodeLength.pushm (c : Cond) (imm : BitVec 16) : EncodeLength.Statement (.pushm c imm) := rfl

theorem EncodeLength.popm (c : Cond) (imm : BitVec 16) : EncodeLength.Statement (.popm c imm) := rfl

theorem EncodeLength.enter (c : Cond) (imm : BitVec 16) : EncodeLength.Statement (.enter c imm) := rfl

theorem EncodeLength.leave (c : Cond) : EncodeLength.Statement (.leave c) := rfl

theorem EncodeLength.alloca (c : Cond) (reg : Reg) : EncodeLength.Statement (.alloca c reg) := rfl

theorem EncodeLength.jmp (c : Cond) (addr : BitVec 24) : EncodeLength.Statement (.jmp c addr) := rfl

theorem EncodeLength.jmpr (c : Cond) (reg : Reg) : EncodeLength.Statement (.jmpr c reg) := rfl

theorem EncodeLength.call (c : Cond) (addr : BitVec 24) : EncodeLength.Statement (.call c addr) := rfl

theorem EncodeLength.calli (c : Cond) (reg : Reg) : EncodeLength.Statement (.calli c reg) := rfl

theorem EncodeLength.ret (c : Cond) : EncodeLength.Statement (.ret c) := rfl

theorem EncodeLength.reti (c : Cond) : EncodeLength.Statement (.reti c) := rfl

theorem EncodeLength.bra (c : Cond) (imm : BitVec 8) : EncodeLength.Statement (.bra c imm) := rfl

theorem EncodeLength.bsr (c : Cond) (imm : BitVec 8) : EncodeLength.Statement (.bsr c imm) := rfl

theorem EncodeLength.cmp (c : Cond) (reg1 reg2 : Reg) : EncodeLength.Statement (.cmp c reg1 reg2) := rfl

theorem EncodeLength.cmpi (c : Cond) (reg : Reg) (imm : BitVec 8) : EncodeLength.Statement (.cmpi c reg imm) := rfl

theorem EncodeLength.tst (c : Cond) (reg1 reg2 : Reg) : EncodeLength.Statement (.tst c reg1 reg2) := rfl

theorem EncodeLength.tsti (c : Cond) (reg : Reg) (imm : BitVec 8) : EncodeLength.Statement (.tsti c reg imm) := rfl

theorem EncodeLength.cmpf (c : Cond) (reg1 reg2 : Reg) : EncodeLength.Statement (.cmpf c reg1 reg2) := rfl

end Sys2Proof.Laws
end

