-- ==== Sys2Proof/Machine/Assembler.lean ====
section
/-! DEFINITION. The assembler of 30_encoding.md section 7 (R114 to R119): from a line of text to an instruction, and from
a listing to its bytes. It is no part of a step. What section 7 does not show (letter case, the characters of a label's name,
blanks, negative immediates, aliases in text, register lists, doubled labels) is a DESIGN CHOICE, safe (log 25). -/

namespace Sys2Proof.Assembler

/-- Text, character by character. -/
abbrev Text := List Char

/-- Why text is no instruction. -/
inductive AsmError where
  /-- The word is no mnemonic, no condition word and no alias (30_encoding.md R117 to R119). -/
  | noSuchMnemonic (word : Text)
  /-- The operand has none of the forms of 30_encoding.md R114. -/
  | noSuchOperand (text : Text)
  /-- `[reg+reg]`, which has no encoding: "an assembler must reject it" (30_encoding.md R115). -/
  | indexRegister (text : Text)
  /-- The operands are not those of the mnemonic's operand list (30_encoding.md R110, R116). -/
  | wrongOperands (word : Text)
  /-- The value does not fit the field (30_encoding.md R99, R116). -/
  | outOfRange
  /-- No line of the listing defines the label. -/
  | noSuchLabel (name : Text)
  /-- More than one line defines the label, or a line has more than one. -/
  | badLabel (name : Text)
deriving DecidableEq, Repr

/-! ## Words and numbers -/

/-- A blank. -/
def isBlank (c : Char) : Bool := c == ' ' || c == '\t'

/-- Text without the blanks around it. -/
def trim (t : Text) : Text := ((t.dropWhile isBlank).reverse.dropWhile isBlank).reverse

/-- The pieces between the separators. -/
def split (sep : Char) : Text → List Text
  | [] => [[]]
  | c :: cs =>
    if c = sep then [] :: split sep cs
    else
      match split sep cs with
      | [] => [[c]]
      | piece :: pieces => (c :: piece) :: pieces

/-- The first word, in lower case, and the text after it. -/
def firstWord (t : Text) : Text × Text :=
  ((t.takeWhile (fun c => !isBlank c)).map Char.toLower, trim (t.dropWhile (fun c => !isBlank c)))

/-- The value of a digit. -/
def digit (c : Char) : Option Nat :=
  if '0' ≤ c ∧ c ≤ '9' then some (c.toNat - '0'.toNat)
  else if 'a' ≤ c.toLower ∧ c.toLower ≤ 'f' then some (c.toLower.toNat - 'a'.toNat + 10)
  else none

/-- The value of digits in a base, most significant first; `none` if one is no digit of the base. -/
def digits (base : Nat) : Nat → Text → Option Nat
  | acc, [] => some acc
  | acc, c :: cs =>
    match digit c with
    | some d => if d < base then digits base (acc * base + d) cs else none
    | none => none

/-- A number: decimal, `0x` hexadecimal or `0b` binary (30_encoding.md R114). -/
def number : Text → Option Nat
  | [] => none
  | '0' :: 'x' :: c :: cs => digits 16 0 (c :: cs)
  | '0' :: 'b' :: c :: cs => digits 2 0 (c :: cs)
  | c :: cs => digits 10 0 (c :: cs)

/-- A label's name, such as `loop_start` (30_encoding.md R114). Which characters a name may hold the spec does not say:
an ASCII letter or an underscore, then ASCII letters, digits and underscores, is a DESIGN CHOICE, safe (log 25). -/
def isName : Text → Bool
  | [] => false
  | c :: cs => (c.isAlpha || c == '_') && cs.all (fun d => d.isAlphanum || d == '_')

/-- What a table says of a word. -/
def lookup {α : Type} (table : List (String × α)) (t : Text) : Option α :=
  (table.find? (fun row => row.1.toList == t)).map (·.2)

/-- `r0` to `r15` (30_encoding.md R114). -/
def registerNames : List (String × Reg) :=
  [("r0", 0), ("r1", 1), ("r2", 2), ("r3", 3), ("r4", 4), ("r5", 5), ("r6", 6), ("r7", 7), ("r8", 8), ("r9", 9),
   ("r10", 10), ("r11", 11), ("r12", 12), ("r13", 13), ("r14", 14), ("r15", 15)]

/-- The aliases of the register convention (10_state.md R22). -/
def registerAliases : List (String × Reg) :=
  [("a0", 0), ("a1", 1), ("a2", 2), ("a3", 3), ("a4", 4), ("a5", 5), ("t1", 6), ("t2", 7), ("t3", 8), ("t4", 9),
   ("t5", 10), ("s1", 11), ("s2", 12), ("s3", 13), ("s4", 14), ("fp", 15)]

/-- The register a word names. -/
def register (t : Text) : Option Reg := lookup (registerNames ++ registerAliases) (t.map Char.toLower)

/-- The condition words (30_encoding.md R81, R117). -/
def conditionWords : List (String × Cond) :=
  [("ifalways", .always), ("ifne", .ne), ("ifnz", .ne), ("ifge", .ge), ("ifgt", .gt), ("ifnever", .never),
   ("ifeq", .eq), ("ifz", .eq), ("iflt", .lt), ("ifle", .le)]

/-- The mnemonics and their opcodes (30_encoding.md R110); there is no pseudo-instruction (R119). -/
def mnemonics : List (String × Byte) :=
  [("halt", 0x00#8), ("syscall", 0x01#8), ("trap", 0x02#8), ("int", 0x03#8), ("iret", 0x04#8)] ++
  [("mov", 0x10#8), ("movi", 0x11#8), ("limm", 0x12#8), ("movhi", 0x13#8), ("swap", 0x14#8), ("lea", 0x15#8)] ++
  [("add", 0x20#8), ("sub", 0x21#8), ("mul", 0x22#8), ("div", 0x23#8), ("mod", 0x24#8), ("divu", 0x25#8),
   ("modu", 0x26#8), ("inc", 0x27#8), ("dec", 0x28#8), ("neg", 0x29#8), ("abs", 0x2A#8), ("addi", 0x2B#8),
   ("subi", 0x2C#8)] ++
  [("and", 0x30#8), ("or", 0x31#8), ("xor", 0x32#8), ("not", 0x33#8), ("andi", 0x34#8), ("ori", 0x35#8),
   ("xori", 0x36#8)] ++
  [("shl", 0x40#8), ("shr", 0x41#8), ("sar", 0x42#8), ("rol", 0x43#8), ("ror", 0x44#8), ("shli", 0x45#8),
   ("shri", 0x46#8), ("sari", 0x47#8)] ++
  [("load", 0x50#8), ("store", 0x51#8), ("loadb", 0x52#8), ("storeb", 0x53#8), ("loadh", 0x54#8),
   ("storeh", 0x55#8), ("loadsb", 0x56#8), ("loadsh", 0x57#8)] ++
  [("push", 0x60#8), ("pop", 0x61#8), ("pushm", 0x62#8), ("popm", 0x63#8), ("enter", 0x64#8), ("leave", 0x65#8),
   ("alloca", 0x66#8)] ++
  [("jmp", 0x70#8), ("jmpr", 0x71#8), ("call", 0x72#8), ("calli", 0x73#8), ("ret", 0x74#8), ("reti", 0x75#8),
   ("bra", 0x76#8), ("bsr", 0x77#8)] ++
  [("cmp", 0x80#8), ("cmpi", 0x81#8), ("tst", 0x82#8), ("tsti", 0x83#8), ("cmpf", 0x84#8)]

/-- The three aliases of the traditional syntax, and no others (30_encoding.md R118). -/
def traditional : List (String × Cond × Byte) :=
  [("movz", .eq, 0x10#8), ("jnz", .ne, 0x70#8), ("addlt", .lt, 0x20#8)]

/-- The condition and the opcode at the head of an instruction, and its operands' text (30_encoding.md R117, R118). -/
def head (t : Text) : Except AsmError (Cond × Byte × Text) :=
  let w := firstWord t
  match lookup traditional w.1, lookup conditionWords w.1 with
  | some (c, op), _ => .ok (c, op, w.2)
  | none, some c =>
    match lookup mnemonics (firstWord w.2).1 with
    | some op => .ok (c, op, (firstWord w.2).2)
    | none => .error (.noSuchMnemonic (firstWord w.2).1)
  | none, none =>
    match lookup mnemonics w.1 with
    | some op => .ok (.always, op, w.2)
    | none => .error (.noSuchMnemonic w.1)

/-! ## Operands -/

/-- An operand as written (30_encoding.md R114). -/
inductive Operand where
  /-- A register or a label, as its place in the operand list says. -/
  | name (t : Text)
  /-- `#123`. -/
  | imm (v : Nat)
  /-- `[r5]`, `[r5+12]`, `[r15-4]`. -/
  | mem (base : Reg) (off : Int)
  /-- `0x001234`, an address. -/
  | addr (v : Nat)
  /-- `+8` or `-12`, a displacement. -/
  | disp (v : Int)
deriving DecidableEq, Repr

/-- What stands between the brackets of a memory operand (30_encoding.md R114, R115). -/
def memOperand (t : Text) : Except AsmError Operand :=
  match (split '+' t).map trim, (split '-' t).map trim with
  | [b], [_] =>
    match register b with
    | some r => .ok (.mem r 0)
    | none => .error (.noSuchOperand t)
  | [b, o], [_] =>
    match register b, number o, register o with
    | some r, some n, _ => .ok (.mem r n)
    | some _, none, some _ => .error (.indexRegister t)
    | _, _, _ => .error (.noSuchOperand t)
  | [_], [b, o] =>
    match register b, number o with
    | some r, some n => .ok (.mem r (-(n : Int)))
    | _, _ => .error (.noSuchOperand t)
  | _, _ => .error (.noSuchOperand t)

/-- A value, or the error of an operand that has none of the forms. -/
def orNoOperand {α : Type} (t : Text) : Option α → Except AsmError α
  | some a => .ok a
  | none => .error (.noSuchOperand t)

/-- One operand (30_encoding.md R114). -/
def operand (t : Text) : Except AsmError Operand :=
  match t with
  | '#' :: cs => orNoOperand t ((number cs).map .imm)
  | '+' :: cs => orNoOperand t ((number cs).map (fun n => .disp n))
  | '-' :: cs => orNoOperand t ((number cs).map (fun n => .disp (-(n : Int))))
  | '[' :: cs =>
    match cs.reverse with
    | ']' :: inner => memOperand inner.reverse
    | _ => .error (.noSuchOperand t)
  | _ =>
    match number t with
    | some n => .ok (.addr n)
    | none => if isName t then .ok (.name t) else .error (.noSuchOperand t)

/-- The operands, separated by commas (30_encoding.md R114). -/
def operands (t : Text) : Except AsmError (List Operand) :=
  if t = [] then .ok [] else (split ',' t).mapM (fun piece => operand (trim piece))

/-! ## From operands to fields -/

/-- The labels of a listing and their addresses. -/
abbrev Labels := List (Text × Word)

/-- A register operand. -/
def regField (m : Text) : Operand → Except AsmError Reg
  | .name t =>
    match register t with
    | some r => .ok r
    | none => .error (.wrongOperands m)
  | _ => .error (.wrongOperands m)

/-- A value of a field of `w` bits; a value the field cannot hold is an error. -/
def unsignedField (w : Nat) (v : Nat) : Except AsmError (BitVec w) :=
  if v < 2 ^ w then .ok (BitVec.ofNat w v) else .error .outOfRange

/-- A value of a signed eight-bit field; a value the field cannot hold is an error (30_encoding.md R116). -/
def signedField (v : Int) : Except AsmError (BitVec 8) :=
  if -128 ≤ v ∧ v ≤ 127 then .ok (BitVec.ofInt 8 v) else .error .outOfRange

/-- An immediate operand of `w` bits. -/
def immField (m : Text) (w : Nat) : Operand → Except AsmError (BitVec w)
  | .imm v => unsignedField w v
  | _ => .error (.wrongOperands m)

/-- A memory operand: BASE and OFFSET (30_encoding.md R114, R116). -/
def memFields (m : Text) : Operand → Except AsmError (Reg × BitVec 8)
  | .mem b off => do
    let v ← signedField off
    return (b, v)
  | _ => .error (.wrongOperands m)

/-- The address a label stands for. -/
def labelAddress (labels : Labels) (t : Text) : Except AsmError Word :=
  match labels.find? (fun l => l.1 == t) with
  | some l => .ok l.2
  | none => .error (.noSuchLabel t)

/-- The target of JMP and CALL: an absolute address of 24 bits (30_encoding.md R116). -/
def targetField (labels : Labels) (m : Text) : Operand → Except AsmError (BitVec 24)
  | .addr v => unsignedField 24 v
  | .name t => do
    let a ← labelAddress labels t
    unsignedField 24 a.toNat
  | _ => .error (.wrongOperands m)

/-- The displacement of BRA and BSR: the label's address less `npc`, in -128 to 127 (30_encoding.md R116). -/
def displacementField (labels : Labels) (npc : Word) (m : Text) : Operand → Except AsmError (BitVec 8)
  | .disp v => signedField v
  | .name t => do
    let a ← labelAddress labels t
    signedField (a - npc).toInt
  | _ => .error (.wrongOperands m)

/-- BRA and BSR, the two mnemonics of layout I8 whose operand is a displacement (30_encoding.md R93, R110). -/
def isBranch (op : Byte) : Bool := op == 0x76#8 || op == 0x77#8

/-- The instruction a pattern makes of the operands, in the order of its operand list (30_encoding.md R116). -/
def build (labels : Labels) (npc : Word) (op : Byte) (m : Text) :
    Pattern → List Operand → Except AsmError Instr
  | .n mk, [] => .ok mk
  | .rrr mk, [a, b, c] => do
    return mk (← regField m a) (← regField m b) (← regField m c)
  | .rr mk, [a, b] => do
    return mk (← regField m a) (← regField m b)
  | .ri8 mk, [a, v] => do
    return mk (← regField m a) (← immField m 8 v)
  | .ri16 mk, [a, v] => do
    return mk (← regField m a) (← immField m 16 v)
  | .m mk, [a, b] => do
    let f ← memFields m b
    return mk (← regField m a) f.1 f.2
  | .j mk, [t] => do
    return mk (← targetField labels m t)
  | .r mk, [a] => do
    return mk (← regField m a)
  | .i8 mk, [v] => do
    return mk (← if isBranch op then displacementField labels npc m v else immField m 8 v)
  | .rri8 mk, [a, b, v] => do
    return mk (← regField m a) (← regField m b) (← immField m 8 v)
  | .rri5 mk, [a, b, v] => do
    return mk (← regField m a) (← regField m b) (← immField m 5 v)
  | .i16 mk, [v] => do
    return mk (← immField m 16 v)
  | .ri32 mk, [a, v] => do
    return mk (← regField m a) (← immField m 32 v)
  | _, _ => .error (.wrongOperands m)

/-- The instruction a text stands for at an address (30_encoding.md R114 to R119). -/
def instruction (labels : Labels) (addr : Word) (t : Text) : Except AsmError Instr := do
  let (c, op, rest) ← head t
  let ops ← operands rest
  match pattern c op with
  | some p => build labels (addr + BitVec.ofNat 32 p.layout.len) op t p ops
  | none => .error (.noSuchMnemonic t)

/-! ## Listings -/

/-- A line without its comment: the label it defines, if any, and its instruction's text (30_encoding.md R114). -/
def line (t : Text) : Except AsmError (Option Text × Text) :=
  match split ':' (t.takeWhile (fun c => c != ';')) with
  | [body] => .ok (none, trim body)
  | [l, body] => if isName (trim l) then .ok (some (trim l), trim body) else .error (.badLabel l)
  | _ => .error (.badLabel t)

/-- The length of the instruction a text stands for; it depends on the mnemonic alone (30_encoding.md R84, R113). -/
def textLength (t : Text) : Except AsmError Nat :=
  if t = [] then .ok 0
  else do
    let (_, op, _) ← head t
    match layoutOf op with
    | some l => return l.len
    | none => .error (.noSuchMnemonic t)

/-- The labels of a listing that starts at an address. -/
def labelsOf : Word → List Text → Except AsmError Labels
  | _, [] => .ok []
  | addr, t :: rest => do
    let (name, body) ← line t
    let n ← textLength body
    let labels ← labelsOf (addr + BitVec.ofNat 32 n) rest
    match name with
    | none => return labels
    | some l => if labels.any (fun x => x.1 == l) then .error (.badLabel l) else return (l, addr) :: labels

/-- The bytes of a listing that starts at an address, its labels given. -/
def bytesOf (labels : Labels) : Word → List Text → Except AsmError (List Byte)
  | _, [] => .ok []
  | addr, t :: rest => do
    let (_, body) ← line t
    if body = [] then bytesOf labels addr rest
    else do
      let i ← instruction labels addr body
      let bs ← bytesOf labels (addr + BitVec.ofNat 32 (encode i).length) rest
      return encode i ++ bs

/-- A listing's bytes from an address on. -/
def assemble (addr : Word) (listing : List String) : Except AsmError (List Byte) := do
  let labels ← labelsOf addr (listing.map String.toList)
  bytesOf labels addr (listing.map String.toList)

end Sys2Proof.Assembler
end

