-- ==== Sys2Proof/Tests/Slice0.lean ====
section
/-! SUPPORT. The model's own tests: decoding of written-out words, ill-formed encodings, one step each on small states
with the values 95_test_vectors.md gives, and for every statement with hypotheses a concrete case that meets them. -/

namespace Sys2Proof.Tests

open Sys2Proof.Machine Sys2Proof.Statements

/-! ## Helpers -/

/-- The spec's test machine (95_test_vectors.md part 2): 64 KiB of zero bytes but for code at `pc` and data. -/
def start (pc sp : Word) (f : Flags) (rs : List (Reg × Word)) (code : List Byte) (a : Nat) (data : List Byte) :
    State :=
  let s := (((State.reset.setPc pc).setSp sp).setFlags f).placeBytes pc code
  rs.foldl (fun s r => s.setReg r.1 r.2) (s.setMem (s.mem.writeBytes a data))

/-- A state with some registers and nothing else of interest. -/
def plain (rs : List (Reg × Word)) : State := start 0x100 0x10000 ⟨false, false, false, false⟩ rs [] 0 []

/-- A condition on the state after one step. -/
def after (s : State) (p : State → Bool) : Bool :=
  match step s with
  | .next t => p t
  | .fault _ => false
  | .refused _ => false

/-- Bytes of memory from an address on. -/
def bytesFrom (s : State) (a n : Nat) : List Byte := (List.range n).map (fun k => s.mem.read (a + k))

/-! ## Decoding: words written out from the layouts of 30_encoding.md (the bytes and the assembly text are those of
95_test_vectors.md, part 2) -/

theorem test_decode_halt : decode [0x00, 0x00] = .ok (.halt .always, []) := rfl
theorem test_decode_syscall : decode [0x00, 0x01] = .ok (.syscall .always, []) := rfl
theorem test_decode_trap : decode [0x00, 0x02, 0x00, 0x03] = .ok (.trap .always 0x03#8, []) := rfl
theorem test_decode_int : decode [0x00, 0x03, 0x00, 0x21] = .ok (.int .always 0x21#8, []) := rfl
theorem test_decode_iret : decode [0x00, 0x04] = .ok (.iret .always, []) := rfl
theorem test_decode_mov : decode [0x00, 0x10, 0x12, 0x00] = .ok (.mov .always 1 2, []) := rfl
theorem test_decode_movi : decode [0x00, 0x11, 0x10, 0x00, 0x7F, 0xFF] = .ok (.movi .always 1 0x7FFF#16, []) := rfl
theorem test_decode_limm : decode [0x00, 0x12, 0x20, 0x00, 0x12, 0x34, 0x56, 0x78] = .ok (.limm .always 2 0x12345678#32, []) := rfl
theorem test_decode_movhi : decode [0x00, 0x13, 0x10, 0x00, 0x12, 0x34] = .ok (.movhi .always 1 0x1234#16, []) := rfl
theorem test_decode_swap : decode [0x00, 0x14, 0x12, 0x00] = .ok (.swap .always 1 2, []) := rfl
theorem test_decode_lea : decode [0x00, 0x15, 0x15, 0x0C] = .ok (.lea .always 1 5 0x0C#8, []) := rfl
theorem test_decode_add : decode [0x00, 0x20, 0x31, 0x20] = .ok (.add .always 3 1 2, []) := rfl
theorem test_decode_sub : decode [0x00, 0x21, 0x31, 0x20] = .ok (.sub .always 3 1 2, []) := rfl
theorem test_decode_mul : decode [0x00, 0x22, 0x31, 0x20] = .ok (.mul .always 3 1 2, []) := rfl
theorem test_decode_div : decode [0x00, 0x23, 0x31, 0x20] = .ok (.div .always 3 1 2, []) := rfl
theorem test_decode_mod : decode [0x00, 0x24, 0x31, 0x20] = .ok (.mod .always 3 1 2, []) := rfl
theorem test_decode_divu : decode [0x00, 0x25, 0x31, 0x20] = .ok (.divu .always 3 1 2, []) := rfl
theorem test_decode_modu : decode [0x00, 0x26, 0x31, 0x20] = .ok (.modu .always 3 1 2, []) := rfl
theorem test_decode_inc : decode [0x00, 0x27, 0x10, 0x00] = .ok (.inc .always 1, []) := rfl
theorem test_decode_dec : decode [0x00, 0x28, 0x10, 0x00] = .ok (.dec .always 1, []) := rfl
theorem test_decode_neg : decode [0x00, 0x29, 0x10, 0x00] = .ok (.neg .always 1, []) := rfl
theorem test_decode_abs : decode [0x00, 0x2A, 0x10, 0x00] = .ok (.abs .always 1, []) := rfl
theorem test_decode_addi : decode [0x00, 0x2B, 0x12, 0x05] = .ok (.addi .always 1 2 0x05#8, []) := rfl
theorem test_decode_subi : decode [0x00, 0x2C, 0x12, 0x05] = .ok (.subi .always 1 2 0x05#8, []) := rfl
theorem test_decode_and : decode [0x00, 0x30, 0x31, 0x20] = .ok (.and .always 3 1 2, []) := rfl
theorem test_decode_or : decode [0x00, 0x31, 0x31, 0x20] = .ok (.or .always 3 1 2, []) := rfl
theorem test_decode_xor : decode [0x00, 0x32, 0x31, 0x20] = .ok (.xor .always 3 1 2, []) := rfl
theorem test_decode_not : decode [0x00, 0x33, 0x10, 0x00] = .ok (.not .always 1, []) := rfl
theorem test_decode_andi : decode [0x00, 0x34, 0x12, 0x0F] = .ok (.andi .always 1 2 0x0F#8, []) := rfl
theorem test_decode_ori : decode [0x00, 0x35, 0x12, 0x0F] = .ok (.ori .always 1 2 0x0F#8, []) := rfl
theorem test_decode_xori : decode [0x00, 0x36, 0x12, 0xFF] = .ok (.xori .always 1 2 0xFF#8, []) := rfl
theorem test_decode_shl : decode [0x00, 0x40, 0x31, 0x20] = .ok (.shl .always 3 1 2, []) := rfl
theorem test_decode_shr : decode [0x00, 0x41, 0x31, 0x20] = .ok (.shr .always 3 1 2, []) := rfl
theorem test_decode_sar : decode [0x00, 0x42, 0x31, 0x20] = .ok (.sar .always 3 1 2, []) := rfl
theorem test_decode_rol : decode [0x00, 0x43, 0x31, 0x20] = .ok (.rol .always 3 1 2, []) := rfl
theorem test_decode_ror : decode [0x00, 0x44, 0x31, 0x20] = .ok (.ror .always 3 1 2, []) := rfl
theorem test_decode_shli : decode [0x00, 0x45, 0x12, 0x04] = .ok (.shli .always 1 2 0x04#5, []) := rfl
theorem test_decode_shri : decode [0x00, 0x46, 0x12, 0x04] = .ok (.shri .always 1 2 0x04#5, []) := rfl
theorem test_decode_sari : decode [0x00, 0x47, 0x12, 0x04] = .ok (.sari .always 1 2 0x04#5, []) := rfl
theorem test_decode_load : decode [0x00, 0x50, 0x15, 0x0C] = .ok (.load .always 1 5 0x0C#8, []) := rfl
theorem test_decode_store : decode [0x00, 0x51, 0x15, 0x0C] = .ok (.store .always 1 5 0x0C#8, []) := rfl
theorem test_decode_loadb : decode [0x00, 0x52, 0x15, 0x0C] = .ok (.loadb .always 1 5 0x0C#8, []) := rfl
theorem test_decode_storeb : decode [0x00, 0x53, 0x15, 0x0C] = .ok (.storeb .always 1 5 0x0C#8, []) := rfl
theorem test_decode_loadh : decode [0x00, 0x54, 0x15, 0x0C] = .ok (.loadh .always 1 5 0x0C#8, []) := rfl
theorem test_decode_storeh : decode [0x00, 0x55, 0x15, 0x0C] = .ok (.storeh .always 1 5 0x0C#8, []) := rfl
theorem test_decode_loadsb : decode [0x00, 0x56, 0x15, 0x0C] = .ok (.loadsb .always 1 5 0x0C#8, []) := rfl
theorem test_decode_loadsh : decode [0x00, 0x57, 0x15, 0x0C] = .ok (.loadsh .always 1 5 0x0C#8, []) := rfl
theorem test_decode_push : decode [0x00, 0x60, 0x10, 0x00] = .ok (.push .always 1, []) := rfl
theorem test_decode_pop : decode [0x00, 0x61, 0x20, 0x00] = .ok (.pop .always 2, []) := rfl
theorem test_decode_pushm : decode [0x00, 0x62, 0x00, 0x00, 0x80, 0x06] = .ok (.pushm .always 0x8006#16, []) := rfl
theorem test_decode_popm : decode [0x00, 0x63, 0x00, 0x00, 0x80, 0x06] = .ok (.popm .always 0x8006#16, []) := rfl
theorem test_decode_enter : decode [0x00, 0x64, 0x00, 0x00, 0x00, 0x10] = .ok (.enter .always 0x0010#16, []) := rfl
theorem test_decode_leave : decode [0x00, 0x65] = .ok (.leave .always, []) := rfl
theorem test_decode_alloca : decode [0x00, 0x66, 0x10, 0x00] = .ok (.alloca .always 1, []) := rfl
theorem test_decode_jmp : decode [0x00, 0x70, 0x00, 0x12, 0x34] = .ok (.jmp .always 0x001234#24, []) := rfl
theorem test_decode_jmpr : decode [0x00, 0x71, 0x10, 0x00] = .ok (.jmpr .always 1, []) := rfl
theorem test_decode_call : decode [0x00, 0x72, 0x00, 0x01, 0x00] = .ok (.call .always 0x000100#24, []) := rfl
theorem test_decode_calli : decode [0x00, 0x73, 0x10, 0x00] = .ok (.calli .always 1, []) := rfl
theorem test_decode_ret : decode [0x00, 0x74] = .ok (.ret .always, []) := rfl
theorem test_decode_reti : decode [0x00, 0x75] = .ok (.reti .always, []) := rfl
theorem test_decode_bra : decode [0x00, 0x76, 0x00, 0xF4] = .ok (.bra .always 0xF4#8, []) := rfl
theorem test_decode_bsr : decode [0x00, 0x77, 0x00, 0x08] = .ok (.bsr .always 0x08#8, []) := rfl
theorem test_decode_cmp : decode [0x00, 0x80, 0x12, 0x00] = .ok (.cmp .always 1 2, []) := rfl
theorem test_decode_cmpi : decode [0x00, 0x81, 0x10, 0x05] = .ok (.cmpi .always 1 0x05#8, []) := rfl
theorem test_decode_tst : decode [0x00, 0x82, 0x12, 0x00] = .ok (.tst .always 1 2, []) := rfl
theorem test_decode_tsti : decode [0x00, 0x83, 0x10, 0x01] = .ok (.tsti .always 1 0x01#8, []) := rfl
theorem test_decode_cmpf : decode [0x00, 0x84, 0x12, 0x00] = .ok (.cmpf .always 1 2, []) := rfl

/-- Every condition code (30_encoding.md R81; the Byte 1 column of 95_test_vectors.md 1.4). -/
theorem test_decode_conditions :
    [0x00, 0x20, 0x40, 0x60, 0x80, 0xA0, 0xC0, 0xE0].map (fun b : Byte => condOf (condBits b)) =
      [.always, .ne, .ge, .gt, .never, .eq, .lt, .le] := rfl

/-- Three conditional instructions of the source (95_test_vectors.md 1.1). -/
theorem test_decode_conditional :
    decode [0xA0, 0x10, 0x12, 0x00] = .ok (.mov .eq 1 2, []) ∧
    decode [0x20, 0x70, 0x00, 0x00, 0x0C] = .ok (.jmp .ne 0x00000C#24, []) ∧
    decode [0xC0, 0x20, 0x31, 0x20] = .ok (.add .lt 3 1 2, []) := ⟨rfl, rfl, rfl⟩

/-- The opcode table's numbers: RRR, J, RI32, N and I8 (30_encoding.md R101). -/
theorem test_decodeTableWord :
    decodeTableWord 32 0x00203120 = some (.add .always 3 1 2) ∧
    decodeTableWord 40 0x0070001234 = some (.jmp .always 0x001234#24) ∧
    decodeTableWord 64 0x0012200012345678 = some (.limm .always 2 0x12345678#32) ∧
    decodeTableWord 16 0x0000 = some (.halt .always) ∧
    decodeTableWord 32 0x00020003 = some (.trap .always 3#8) ∧
    decodeTableWord 32 0x01203120 = none := ⟨rfl, rfl, rfl, rfl, rfl, rfl⟩

/-- The encoder writes the same bytes (95_test_vectors.md 1.1, 1.5 and 2.9). -/
theorem test_encode :
    encode (.add .lt 3 1 2) = [0xC0, 0x20, 0x31, 0x20] ∧
    encode (.movi .always 1 10#16) = [0x00, 0x11, 0x10, 0x00, 0x00, 0x0A] ∧
    encode (.load .always 1 5 12#8) = [0x00, 0x50, 0x15, 0x0C] ∧
    encode (.jmp .always 0x001234#24) = [0x00, 0x70, 0x00, 0x12, 0x34] ∧
    encode (.pushm .always 0x8006#16) = [0x00, 0x62, 0x00, 0x00, 0x80, 0x06] := ⟨rfl, rfl, rfl, rfl, rfl⟩

/-! ## Ill-formed encodings (95_test_vectors.md 2.2): each check of WellFormed refuses, and the decoder by name -/

theorem test_wellFormed_accepts : wellFormedBytes [0x00, 0x20, 0x31, 0x20] = true := rfl

theorem test_flagsField_refused :
    flagsFieldZero [0x01, 0x20, 0x31, 0x20] = false ∧ wellFormedBytes [0x01, 0x20, 0x31, 0x20] = false ∧
    decode [0x01, 0x20, 0x31, 0x20] = .error .flagsFieldNotZero ∧
    decode [0x9F, 0x20, 0x31, 0x20] = .error .flagsFieldNotZero := ⟨rfl, rfl, rfl, rfl⟩

theorem test_reservedOpcode_refused :
    opcodeDefined [0x80, 0x05] = false ∧ wellFormedBytes [0x80, 0x05] = false ∧
    decode [0x80, 0x05] = .error .reservedOpcode ∧ decode [0x00, 0x90, 0x00, 0x00] = .error .reservedOpcode ∧
    decode [0x00, 0xA0, 0x00, 0x00] = .error .reservedOpcode ∧
    decode [0x00, 0xFF, 0x00, 0x00] = .error .reservedOpcode := ⟨rfl, rfl, rfl, rfl, rfl, rfl⟩

theorem test_length_refused :
    lengthRight .rrr [0x00, 0x20, 0x31] = false ∧ wellFormedBytes [0x00, 0x20, 0x31] = false ∧
    wellFormedBytes [0x00, 0x20, 0x31, 0x20, 0x00] = false ∧ wellFormedBytes [0x00] = false ∧
    decode [0x00, 0x20, 0x31] = .error .truncated ∧ decode [0x00] = .error .truncated := ⟨rfl, rfl, rfl, rfl, rfl, rfl⟩

theorem test_pad_refused :
    fixedBitsRight .rrr 0x20#8 [0x00, 0x20, 0x31, 0x21] = false ∧
    [[0x00, 0x20, 0x31, 0x21], [0x80, 0x20, 0x31, 0x21], [0x00, 0x10, 0x12, 0x01], [0x00, 0x81, 0x11, 0x05],
      [0x00, 0x27, 0x10, 0x01], [0x00, 0x27, 0x11, 0x00], [0x00, 0x76, 0x10, 0x04], [0x00, 0x45, 0x21, 0x24],
      [0x00, 0x11, 0x10, 0x01, 0x00, 0x05], [0x00, 0x64, 0x00, 0x01, 0x00, 0x08],
      [0x00, 0x12, 0x20, 0x10, 0x00, 0x00, 0x00, 0x01]].all
      (fun bs => !wellFormedBytes bs && decide (decode bs = .error .padNotZero)) = true := ⟨rfl, by decide⟩

/-! ## One step (95_test_vectors.md 2.2 to 2.11; expected values are the spec's) -/

/-- `halt` -/
theorem test_halt_halts :
    after (start 0x100 0x10000 ⟨true, true, true, true⟩ [] [0x00, 0x00] 0 [])
      (fun t => t.flags == ⟨true, true, true, true⟩ && t.pc == 0x102 && t.halted && t.control == .machine) = true := by decide

/-- `syscall` -/
theorem test_syscall_delivers :
    after (start 0x100 0x10000 ⟨true, true, true, true⟩ [(0, 0x1E), (1, 0x2000), (2, 0x5)] [0x00, 0x01] 0 [])
      (fun t => t.flags == ⟨true, true, true, true⟩ && t.pc == 0x102 && !t.halted && t.control == .environment (.sysCall 0x1E 0x2000 5 0 0 0)) = true := by decide

/-- `trap #255` -/
theorem test_trap_delivers_255 :
    after (start 0x100 0x10000 ⟨true, true, true, true⟩ [] [0x00, 0x02, 0x00, 0xFF] 0 [])
      (fun t => t.flags == ⟨true, true, true, true⟩ && t.pc == 0x104 && !t.halted && t.control == .environment (.trap 255)) = true := by decide

/-- `int #0x21` -/
theorem test_int_delivers :
    after (start 0x100 0x10000 ⟨true, true, true, true⟩ [] [0x00, 0x03, 0x00, 0x21] 0 [])
      (fun t => t.flags == ⟨true, true, true, true⟩ && t.pc == 0x104 && !t.halted && t.control == .environment (.softInt 33)) = true := by decide

/-- `iret` -/
theorem test_iret_delivers :
    after (start 0x100 0x10000 ⟨true, true, true, true⟩ [] [0x00, 0x04] 0 [])
      (fun t => t.flags == ⟨true, true, true, true⟩ && t.pc == 0x102 && !t.halted && t.control == .environment .intReturn) = true := by decide

/-- `movi r1, #0x8000` -/
theorem test_movi_sign_extends :
    after (start 0x100 0x10000 ⟨true, true, true, true⟩ [] [0x00, 0x11, 0x10, 0x00, 0x80, 0x00] 0 [])
      (fun t => t.reg 1 == 0xFFFF8000 && t.flags == ⟨true, true, true, true⟩ && t.pc == 0x106 && !t.halted && t.control == .machine) = true := by decide

/-- `limm r2, #0x12345678` -/
theorem test_limm_loads :
    after (start 0x100 0x10000 ⟨true, true, true, true⟩ [] [0x00, 0x12, 0x20, 0x00, 0x12, 0x34, 0x56, 0x78] 0 [])
      (fun t => t.reg 2 == 0x12345678 && t.flags == ⟨true, true, true, true⟩ && t.pc == 0x108 && !t.halted && t.control == .machine) = true := by decide

/-- `movhi r1, #0x1234` -/
theorem test_movhi_keeps_low_half :
    after (start 0x100 0x10000 ⟨true, true, true, true⟩ [(1, 0xFFFFFFFE)] [0x00, 0x13, 0x10, 0x00, 0x12, 0x34] 0 [])
      (fun t => t.reg 1 == 0x1234FFFE && t.flags == ⟨true, true, true, true⟩ && t.pc == 0x106 && !t.halted && t.control == .machine) = true := by decide

/-- `swap r1, r2` -/
theorem test_swap_exchanges :
    after (start 0x100 0x10000 ⟨true, true, true, true⟩ [(1, 0x1), (2, 0x2)] [0x00, 0x14, 0x12, 0x00] 0 [])
      (fun t => t.reg 1 == 0x2 && t.reg 2 == 0x1 && t.flags == ⟨true, true, true, true⟩ && t.pc == 0x104 && !t.halted && t.control == .machine) = true := by decide

/-- `lea r1, [r5-4]` -/
theorem test_lea_negative_offset :
    after (start 0x100 0x10000 ⟨true, true, true, true⟩ [(5, 0x1000)] [0x00, 0x15, 0x15, 0xFC] 0 [])
      (fun t => t.reg 1 == 0xFFC && t.flags == ⟨true, true, true, true⟩ && t.pc == 0x104 && !t.halted && t.control == .machine) = true := by decide

/-- `lea r1, [r1-128]` -/
theorem test_lea_wraps :
    after (start 0x100 0x10000 ⟨true, true, true, true⟩ [(1, 0x10)] [0x00, 0x15, 0x11, 0x80] 0 [])
      (fun t => t.reg 1 == 0xFFFFFF90 && t.flags == ⟨true, true, true, true⟩ && t.pc == 0x104 && !t.halted && t.control == .machine) = true := by decide

/-- `add r3, r1, r2` -/
theorem test_add_carries :
    after (start 0x100 0x10000 ⟨false, false, false, false⟩ [(1, 0xFFFFFFFF), (2, 0x1)] [0x00, 0x20, 0x31, 0x20] 0 [])
      (fun t => t.reg 3 == 0x0 && t.flags == ⟨true, false, true, false⟩ && t.pc == 0x104 && !t.halted && t.control == .machine) = true := by decide

/-- `add r3, r1, r2` -/
theorem test_add_overflows :
    after (start 0x100 0x10000 ⟨false, false, false, false⟩ [(1, 0x7FFFFFFF), (2, 0x1)] [0x00, 0x20, 0x31, 0x20] 0 [])
      (fun t => t.reg 3 == 0x80000000 && t.flags == ⟨false, true, false, true⟩ && t.pc == 0x104 && !t.halted && t.control == .machine) = true := by decide

/-- `sub r3, r1, r2` -/
theorem test_sub_borrows :
    after (start 0x100 0x10000 ⟨false, false, false, false⟩ [(1, 0x5), (2, 0x7)] [0x00, 0x21, 0x31, 0x20] 0 [])
      (fun t => t.reg 3 == 0xFFFFFFFE && t.flags == ⟨false, true, true, false⟩ && t.pc == 0x104 && !t.halted && t.control == .machine) = true := by decide

/-- `sub r3, r1, r2` -/
theorem test_sub_overflows :
    after (start 0x100 0x10000 ⟨false, false, false, false⟩ [(1, 0x80000000), (2, 0x1)] [0x00, 0x21, 0x31, 0x20] 0 [])
      (fun t => t.reg 3 == 0x7FFFFFFF && t.flags == ⟨false, false, false, true⟩ && t.pc == 0x104 && !t.halted && t.control == .machine) = true := by decide

/-- `mul r3, r1, r2` -/
theorem test_mul_truncates :
    after (start 0x100 0x10000 ⟨true, true, true, true⟩ [(1, 0x10000), (2, 0x10000)] [0x00, 0x22, 0x31, 0x20] 0 [])
      (fun t => t.reg 3 == 0x0 && t.flags == ⟨true, false, false, false⟩ && t.pc == 0x104 && !t.halted && t.control == .machine) = true := by decide

/-- `mul r3, r1, r2` -/
theorem test_mul_low_word :
    after (start 0x100 0x10000 ⟨true, true, true, true⟩ [(1, 0x12345678), (2, 0x9ABCDEF0)] [0x00, 0x22, 0x31, 0x20] 0 [])
      (fun t => t.reg 3 == 0x242D2080 && t.flags == ⟨false, false, false, false⟩ && t.pc == 0x104 && !t.halted && t.control == .machine) = true := by decide

/-- `div r3, r1, r2` -/
theorem test_div_truncates :
    after (start 0x100 0x10000 ⟨true, true, true, true⟩ [(1, 0xFFFFFFF9), (2, 0x2)] [0x00, 0x23, 0x31, 0x20] 0 [])
      (fun t => t.reg 3 == 0xFFFFFFFD && t.flags == ⟨false, true, false, false⟩ && t.pc == 0x104 && !t.halted && t.control == .machine) = true := by decide

theorem test_div_minimum_by_minus_one :
    step (start 0x100 0x10000 ⟨true, true, true, true⟩ [(1, 0x80000000), (2, 0xFFFFFFFF), (3, 0x9)] [0x00, 0x23, 0x31, 0x20] 0 []) = .fault (.divideError 0x100#32) := by rfl

/-- `mod r3, r1, r2` -/
theorem test_mod_sign_of_dividend :
    after (start 0x100 0x10000 ⟨true, true, true, true⟩ [(1, 0xFFFFFFF9), (2, 0x2)] [0x00, 0x24, 0x31, 0x20] 0 [])
      (fun t => t.reg 3 == 0xFFFFFFFF && t.flags == ⟨false, true, false, false⟩ && t.pc == 0x104 && !t.halted && t.control == .machine) = true := by decide

theorem test_mod_by_zero :
    step (start 0x100 0x10000 ⟨true, true, true, true⟩ [(1, 0x7), (2, 0x0), (3, 0x9)] [0x00, 0x24, 0x31, 0x20] 0 []) = .fault (.divideError 0x100#32) := by rfl

/-- `divu r3, r1, r2` -/
theorem test_divu_unsigned :
    after (start 0x100 0x10000 ⟨true, true, true, true⟩ [(1, 0xFFFFFFF9), (2, 0x2)] [0x00, 0x25, 0x31, 0x20] 0 [])
      (fun t => t.reg 3 == 0x7FFFFFFC && t.flags == ⟨false, false, false, false⟩ && t.pc == 0x104 && !t.halted && t.control == .machine) = true := by decide

theorem test_divu_by_zero :
    step (start 0x100 0x10000 ⟨true, true, true, true⟩ [(1, 0x5), (2, 0x0), (3, 0x9)] [0x00, 0x25, 0x31, 0x20] 0 []) = .fault (.divideError 0x100#32) := by rfl

/-- `modu r3, r1, r2` -/
theorem test_modu_unsigned :
    after (start 0x100 0x10000 ⟨true, true, true, true⟩ [(1, 0xFFFFFFF9), (2, 0x2)] [0x00, 0x26, 0x31, 0x20] 0 [])
      (fun t => t.reg 3 == 0x1 && t.flags == ⟨false, false, false, false⟩ && t.pc == 0x104 && !t.halted && t.control == .machine) = true := by decide

theorem test_modu_by_zero :
    step (start 0x100 0x10000 ⟨true, true, true, true⟩ [(1, 0x5), (2, 0x0), (3, 0x9)] [0x00, 0x26, 0x31, 0x20] 0 []) = .fault (.divideError 0x100#32) := by rfl

/-- `inc r1` -/
theorem test_inc_carries :
    after (start 0x100 0x10000 ⟨false, false, false, false⟩ [(1, 0xFFFFFFFF)] [0x00, 0x27, 0x10, 0x00] 0 [])
      (fun t => t.reg 1 == 0x0 && t.flags == ⟨true, false, true, false⟩ && t.pc == 0x104 && !t.halted && t.control == .machine) = true := by decide

/-- `inc r1` -/
theorem test_inc_overflows :
    after (start 0x100 0x10000 ⟨false, false, false, false⟩ [(1, 0x7FFFFFFF)] [0x00, 0x27, 0x10, 0x00] 0 [])
      (fun t => t.reg 1 == 0x80000000 && t.flags == ⟨false, true, false, true⟩ && t.pc == 0x104 && !t.halted && t.control == .machine) = true := by decide

/-- `dec r1` -/
theorem test_dec_borrows :
    after (start 0x100 0x10000 ⟨false, false, false, false⟩ [(1, 0x0)] [0x00, 0x28, 0x10, 0x00] 0 [])
      (fun t => t.reg 1 == 0xFFFFFFFF && t.flags == ⟨false, true, true, false⟩ && t.pc == 0x104 && !t.halted && t.control == .machine) = true := by decide

/-- `dec r1` -/
theorem test_dec_overflows :
    after (start 0x100 0x10000 ⟨false, false, false, false⟩ [(1, 0x80000000)] [0x00, 0x28, 0x10, 0x00] 0 [])
      (fun t => t.reg 1 == 0x7FFFFFFF && t.flags == ⟨false, false, false, true⟩ && t.pc == 0x104 && !t.halted && t.control == .machine) = true := by decide

/-- `neg r1` -/
theorem test_neg_borrows :
    after (start 0x100 0x10000 ⟨true, true, true, true⟩ [(1, 0x5)] [0x00, 0x29, 0x10, 0x00] 0 [])
      (fun t => t.reg 1 == 0xFFFFFFFB && t.flags == ⟨false, true, true, false⟩ && t.pc == 0x104 && !t.halted && t.control == .machine) = true := by decide

/-- `neg r1` -/
theorem test_neg_of_minimum :
    after (start 0x100 0x10000 ⟨false, false, false, false⟩ [(1, 0x80000000)] [0x00, 0x29, 0x10, 0x00] 0 [])
      (fun t => t.reg 1 == 0x80000000 && t.flags == ⟨false, true, true, true⟩ && t.pc == 0x104 && !t.halted && t.control == .machine) = true := by decide

/-- `abs r1` -/
theorem test_abs_of_negative :
    after (start 0x100 0x10000 ⟨true, true, true, true⟩ [(1, 0xFFFFFFF9)] [0x00, 0x2A, 0x10, 0x00] 0 [])
      (fun t => t.reg 1 == 0x7 && t.flags == ⟨false, false, false, false⟩ && t.pc == 0x104 && !t.halted && t.control == .machine) = true := by decide

/-- `abs r1` -/
theorem test_abs_of_minimum :
    after (start 0x100 0x10000 ⟨false, false, false, false⟩ [(1, 0x80000000)] [0x00, 0x2A, 0x10, 0x00] 0 [])
      (fun t => t.reg 1 == 0x80000000 && t.flags == ⟨false, true, false, true⟩ && t.pc == 0x104 && !t.halted && t.control == .machine) = true := by decide

/-- `addi r1, r2, #5` -/
theorem test_addi_carries :
    after (start 0x100 0x10000 ⟨true, true, true, true⟩ [(2, 0xFFFFFFFE)] [0x00, 0x2B, 0x12, 0x05] 0 [])
      (fun t => t.reg 1 == 0x3 && t.flags == ⟨false, false, true, false⟩ && t.pc == 0x104 && !t.halted && t.control == .machine) = true := by decide

/-- `addi r2, r1, #0xFF` -/
theorem test_addi_immediate_unsigned :
    after (start 0x100 0x10000 ⟨true, true, true, true⟩ [(1, 0x1)] [0x00, 0x2B, 0x21, 0xFF] 0 [])
      (fun t => t.reg 2 == 0x100 && t.flags == ⟨false, false, false, false⟩ && t.pc == 0x104 && !t.halted && t.control == .machine) = true := by decide

/-- `subi r1, r2, #5` -/
theorem test_subi_borrows :
    after (start 0x100 0x10000 ⟨true, true, true, true⟩ [(2, 0x3)] [0x00, 0x2C, 0x12, 0x05] 0 [])
      (fun t => t.reg 1 == 0xFFFFFFFE && t.flags == ⟨false, true, true, false⟩ && t.pc == 0x104 && !t.halted && t.control == .machine) = true := by decide

/-- `subi r2, r1, #0xFF` -/
theorem test_subi_immediate_unsigned :
    after (start 0x100 0x10000 ⟨true, true, true, true⟩ [(1, 0xFE)] [0x00, 0x2C, 0x21, 0xFF] 0 [])
      (fun t => t.reg 2 == 0xFFFFFFFF && t.flags == ⟨false, true, true, false⟩ && t.pc == 0x104 && !t.halted && t.control == .machine) = true := by decide

/-- `and r3, r1, r2` -/
theorem test_and_clears_c_v :
    after (start 0x100 0x10000 ⟨true, true, true, true⟩ [(1, 0xF0F0F0F0), (2, 0xFF00FF00)] [0x00, 0x30, 0x31, 0x20] 0 [])
      (fun t => t.reg 3 == 0xF000F000 && t.flags == ⟨false, true, false, false⟩ && t.pc == 0x104 && !t.halted && t.control == .machine) = true := by decide

/-- `or r3, r1, r2` -/
theorem test_or_sets_n :
    after (start 0x100 0x10000 ⟨true, true, true, true⟩ [(1, 0xFF00FF00), (2, 0xFF00FF0)] [0x00, 0x31, 0x31, 0x20] 0 [])
      (fun t => t.reg 3 == 0xFFF0FFF0 && t.flags == ⟨false, true, false, false⟩ && t.pc == 0x104 && !t.halted && t.control == .machine) = true := by decide

/-- `xor r3, r1, r2` -/
theorem test_xor_differs :
    after (start 0x100 0x10000 ⟨true, true, true, true⟩ [(1, 0xFF00FF00), (2, 0xFF00FF0)] [0x00, 0x32, 0x31, 0x20] 0 [])
      (fun t => t.reg 3 == 0xF0F0F0F0 && t.flags == ⟨false, true, false, false⟩ && t.pc == 0x104 && !t.halted && t.control == .machine) = true := by decide

/-- `xor r3, r1, r1` -/
theorem test_xor_self_is_zero :
    after (start 0x100 0x10000 ⟨true, true, true, true⟩ [(1, 0x12345678)] [0x00, 0x32, 0x31, 0x10] 0 [])
      (fun t => t.reg 3 == 0x0 && t.flags == ⟨true, false, false, false⟩ && t.pc == 0x104 && !t.halted && t.control == .machine) = true := by decide

/-- `not r1` -/
theorem test_not_inverts :
    after (start 0x100 0x10000 ⟨true, true, true, true⟩ [(1, 0xFFFF)] [0x00, 0x33, 0x10, 0x00] 0 [])
      (fun t => t.reg 1 == 0xFFFF0000 && t.flags == ⟨false, true, false, false⟩ && t.pc == 0x104 && !t.halted && t.control == .machine) = true := by decide

/-- `andi r1, r2, #0x0F` -/
theorem test_andi_masks :
    after (start 0x100 0x10000 ⟨true, true, true, true⟩ [(2, 0x12345678)] [0x00, 0x34, 0x12, 0x0F] 0 [])
      (fun t => t.reg 1 == 0x8 && t.flags == ⟨false, false, false, false⟩ && t.pc == 0x104 && !t.halted && t.control == .machine) = true := by decide

/-- `andi r2, r1, #0xFF` -/
theorem test_andi_zero_extends :
    after (start 0x100 0x10000 ⟨true, true, true, true⟩ [(1, 0xFFFFFF00)] [0x00, 0x34, 0x21, 0xFF] 0 [])
      (fun t => t.reg 2 == 0x0 && t.flags == ⟨true, false, false, false⟩ && t.pc == 0x104 && !t.halted && t.control == .machine) = true := by decide

/-- `ori r2, r1, #0x80` -/
theorem test_ori_sets_n :
    after (start 0x100 0x10000 ⟨true, true, true, true⟩ [(1, 0x80000000)] [0x00, 0x35, 0x21, 0x80] 0 [])
      (fun t => t.reg 2 == 0x80000080 && t.flags == ⟨false, true, false, false⟩ && t.pc == 0x104 && !t.halted && t.control == .machine) = true := by decide

/-- `xori r1, r2, #0xFF` -/
theorem test_xori_differs :
    after (start 0x100 0x10000 ⟨true, true, true, true⟩ [(2, 0x12345678)] [0x00, 0x36, 0x12, 0xFF] 0 [])
      (fun t => t.reg 1 == 0x12345687 && t.flags == ⟨false, false, false, false⟩ && t.pc == 0x104 && !t.halted && t.control == .machine) = true := by decide

/-- `shl r3, r1, r2` -/
theorem test_shl_loses_top_bit :
    after (start 0x100 0x10000 ⟨true, true, true, true⟩ [(1, 0x80000001), (2, 0x1)] [0x00, 0x40, 0x31, 0x20] 0 [])
      (fun t => t.reg 3 == 0x2 && t.flags == ⟨false, false, false, false⟩ && t.pc == 0x104 && !t.halted && t.control == .machine) = true := by decide

/-- `shl r3, r1, r2` -/
theorem test_shl_count_modulo_32 :
    after (start 0x100 0x10000 ⟨true, true, true, true⟩ [(1, 0x1), (2, 0x21)] [0x00, 0x40, 0x31, 0x20] 0 [])
      (fun t => t.reg 3 == 0x2 && t.flags == ⟨false, false, false, false⟩ && t.pc == 0x104 && !t.halted && t.control == .machine) = true := by decide

/-- `shr r3, r1, r2` -/
theorem test_shr_shifts_in_zero :
    after (start 0x100 0x10000 ⟨true, true, true, true⟩ [(1, 0x80000000), (2, 0x4)] [0x00, 0x41, 0x31, 0x20] 0 [])
      (fun t => t.reg 3 == 0x8000000 && t.flags == ⟨false, false, false, false⟩ && t.pc == 0x104 && !t.halted && t.control == .machine) = true := by decide

/-- `sar r3, r1, r2` -/
theorem test_sar_rounds_down :
    after (start 0x100 0x10000 ⟨true, true, true, true⟩ [(1, 0xFFFFFFF9), (2, 0x1)] [0x00, 0x42, 0x31, 0x20] 0 [])
      (fun t => t.reg 3 == 0xFFFFFFFC && t.flags == ⟨false, true, false, false⟩ && t.pc == 0x104 && !t.halted && t.control == .machine) = true := by decide

/-- `sar r3, r1, r2` -/
theorem test_sar_by_31 :
    after (start 0x100 0x10000 ⟨true, true, true, true⟩ [(1, 0x80000000), (2, 0x1F)] [0x00, 0x42, 0x31, 0x20] 0 [])
      (fun t => t.reg 3 == 0xFFFFFFFF && t.flags == ⟨false, true, false, false⟩ && t.pc == 0x104 && !t.halted && t.control == .machine) = true := by decide

/-- `rol r3, r1, r2` -/
theorem test_rol_by_one :
    after (start 0x100 0x10000 ⟨true, true, true, true⟩ [(1, 0x80000001), (2, 0x1)] [0x00, 0x43, 0x31, 0x20] 0 [])
      (fun t => t.reg 3 == 0x3 && t.flags == ⟨false, false, false, false⟩ && t.pc == 0x104 && !t.halted && t.control == .machine) = true := by decide

/-- `rol r3, r1, r2` -/
theorem test_rol_by_eight :
    after (start 0x100 0x10000 ⟨true, true, true, true⟩ [(1, 0x12345678), (2, 0x8)] [0x00, 0x43, 0x31, 0x20] 0 [])
      (fun t => t.reg 3 == 0x34567812 && t.flags == ⟨false, false, false, false⟩ && t.pc == 0x104 && !t.halted && t.control == .machine) = true := by decide

/-- `ror r3, r1, r2` -/
theorem test_ror_by_one :
    after (start 0x100 0x10000 ⟨true, true, true, true⟩ [(1, 0x80000001), (2, 0x1)] [0x00, 0x44, 0x31, 0x20] 0 [])
      (fun t => t.reg 3 == 0xC0000000 && t.flags == ⟨false, true, false, false⟩ && t.pc == 0x104 && !t.halted && t.control == .machine) = true := by decide

/-- `ror r3, r1, r2` -/
theorem test_ror_by_eight :
    after (start 0x100 0x10000 ⟨true, true, true, true⟩ [(1, 0x12345678), (2, 0x8)] [0x00, 0x44, 0x31, 0x20] 0 [])
      (fun t => t.reg 3 == 0x78123456 && t.flags == ⟨false, false, false, false⟩ && t.pc == 0x104 && !t.halted && t.control == .machine) = true := by decide

/-- `shli r2, r1, #31` -/
theorem test_shli_by_31 :
    after (start 0x100 0x10000 ⟨true, true, true, true⟩ [(1, 0x3)] [0x00, 0x45, 0x21, 0x1F] 0 [])
      (fun t => t.reg 2 == 0x80000000 && t.flags == ⟨false, true, false, false⟩ && t.pc == 0x104 && !t.halted && t.control == .machine) = true := by decide

/-- `shri r2, r1, #31` -/
theorem test_shri_by_31 :
    after (start 0x100 0x10000 ⟨true, true, true, true⟩ [(1, 0xFFFFFFFF)] [0x00, 0x46, 0x21, 0x1F] 0 [])
      (fun t => t.reg 2 == 0x1 && t.flags == ⟨false, false, false, false⟩ && t.pc == 0x104 && !t.halted && t.control == .machine) = true := by decide

/-- `sari r2, r1, #1` -/
theorem test_sari_rounds_down :
    after (start 0x100 0x10000 ⟨true, true, true, true⟩ [(1, 0xFFFFFFF9)] [0x00, 0x47, 0x21, 0x01] 0 [])
      (fun t => t.reg 2 == 0xFFFFFFFC && t.flags == ⟨false, true, false, false⟩ && t.pc == 0x104 && !t.halted && t.control == .machine) = true := by decide

/-- `load r5, [r5]` -/
theorem test_load_over_its_base :
    after (start 0x100 0x10000 ⟨true, true, true, true⟩ [(5, 0x1000)] [0x00, 0x50, 0x55, 0x00] 0x1000 [0x00, 0x00, 0x20, 0x00])
      (fun t => t.reg 5 == 0x2000 && t.flags == ⟨true, true, true, true⟩ && t.pc == 0x104 && !t.halted && t.control == .machine) = true := by decide

theorem test_load_misaligned :
    step (start 0x100 0x10000 ⟨true, true, true, true⟩ [(5, 0x1000), (1, 0x9)] [0x00, 0x50, 0x15, 0x02] 0 []) = .fault (.alignmentFault 0x1002#32) := by rfl

/-- `store r1, [r5+12]` -/
theorem test_store_big_endian :
    after (start 0x100 0x10000 ⟨true, true, true, true⟩ [(1, 0xAABBCCDD), (5, 0x1000)] [0x00, 0x51, 0x15, 0x0C] 0 [])
      (fun t => t.flags == ⟨true, true, true, true⟩ && t.pc == 0x104 && bytesFrom t 0x100C 4 == [0xAA, 0xBB, 0xCC, 0xDD] && !t.halted && t.control == .machine) = true := by decide

theorem test_store_outside :
    step (start 0x100 0x10000 ⟨true, true, true, true⟩ [(5, 0xFFFC), (1, 0x9)] [0x00, 0x51, 0x15, 0x04] 0 []) = .fault (.memoryFault 0x10000#32 4 .write) := by rfl

/-- `loadb r1, [r5+12]` -/
theorem test_loadb_zero_extends :
    after (start 0x100 0x10000 ⟨true, true, true, true⟩ [(5, 0x1000)] [0x00, 0x52, 0x15, 0x0C] 0x100C [0x80])
      (fun t => t.reg 1 == 0x80 && t.flags == ⟨true, true, true, true⟩ && t.pc == 0x104 && !t.halted && t.control == .machine) = true := by decide

/-- `loadb r1, [r5-1]` -/
theorem test_loadb_last_byte :
    after (start 0x100 0x10000 ⟨true, true, true, true⟩ [(5, 0x10000)] [0x00, 0x52, 0x15, 0xFF] 0xFFFF [0xAB])
      (fun t => t.reg 1 == 0xAB && t.flags == ⟨true, true, true, true⟩ && t.pc == 0x104 && !t.halted && t.control == .machine) = true := by decide

/-- `storeb r1, [r5]` -/
theorem test_storeb_neighbours_untouched :
    after (start 0x100 0x10000 ⟨true, true, true, true⟩ [(5, 0x1001), (1, 0x1FF)] [0x00, 0x53, 0x15, 0x00] 0x1000 [0xAA, 0xAA, 0xAA, 0xAA])
      (fun t => t.flags == ⟨true, true, true, true⟩ && t.pc == 0x104 && bytesFrom t 0x1000 4 == [0xAA, 0xFF, 0xAA, 0xAA] && !t.halted && t.control == .machine) = true := by decide

/-- `loadh r1, [r5+14]` -/
theorem test_loadh_low_half :
    after (start 0x100 0x10000 ⟨true, true, true, true⟩ [(5, 0x1000)] [0x00, 0x54, 0x15, 0x0E] 0x100C [0x11, 0x22, 0x33, 0x44])
      (fun t => t.reg 1 == 0x3344 && t.flags == ⟨true, true, true, true⟩ && t.pc == 0x104 && !t.halted && t.control == .machine) = true := by decide

/-- `loadh r1, [r5+12]` -/
theorem test_loadh_zero_extends :
    after (start 0x100 0x10000 ⟨true, true, true, true⟩ [(5, 0x1000)] [0x00, 0x54, 0x15, 0x0C] 0x100C [0x80, 0x01])
      (fun t => t.reg 1 == 0x8001 && t.flags == ⟨true, true, true, true⟩ && t.pc == 0x104 && !t.halted && t.control == .machine) = true := by decide

/-- `storeh r1, [r5+12]` -/
theorem test_storeh_low_half :
    after (start 0x100 0x10000 ⟨true, true, true, true⟩ [(1, 0xAABBCCDD), (5, 0x1000)] [0x00, 0x55, 0x15, 0x0C] 0 [])
      (fun t => t.flags == ⟨true, true, true, true⟩ && t.pc == 0x104 && bytesFrom t 0x100C 4 == [0xCC, 0xDD, 0x00, 0x00] && !t.halted && t.control == .machine) = true := by decide

theorem test_storeh_misaligned :
    step (start 0x100 0x10000 ⟨true, true, true, true⟩ [(5, 0x1000), (1, 0x9)] [0x00, 0x55, 0x15, 0x03] 0 []) = .fault (.alignmentFault 0x1003#32) := by rfl

/-- `loadsb r1, [r5+12]` -/
theorem test_loadsb_sign_extends :
    after (start 0x100 0x10000 ⟨true, true, true, true⟩ [(5, 0x1000)] [0x00, 0x56, 0x15, 0x0C] 0x100C [0x80])
      (fun t => t.reg 1 == 0xFFFFFF80 && t.flags == ⟨true, true, true, true⟩ && t.pc == 0x104 && !t.halted && t.control == .machine) = true := by decide

/-- `loadsh r1, [r5+12]` -/
theorem test_loadsh_sign_extends :
    after (start 0x100 0x10000 ⟨true, true, true, true⟩ [(5, 0x1000)] [0x00, 0x57, 0x15, 0x0C] 0x100C [0x80, 0x01])
      (fun t => t.reg 1 == 0xFFFF8001 && t.flags == ⟨true, true, true, true⟩ && t.pc == 0x104 && !t.halted && t.control == .machine) = true := by decide

/-- `push r1` -/
theorem test_push_lowest_slot :
    after (start 0x100 0x4 ⟨true, true, true, true⟩ [(1, 0x1)] [0x00, 0x60, 0x10, 0x00] 0 [])
      (fun t => t.flags == ⟨true, true, true, true⟩ && t.pc == 0x104 && t.sp == 0x0 && bytesFrom t 0x0 4 == [0x00, 0x00, 0x00, 0x01] && !t.halted && t.control == .machine) = true := by decide

theorem test_push_below_memory :
    step (start 0x100 0x0 ⟨true, true, true, true⟩ [(1, 0x1)] [0x00, 0x60, 0x10, 0x00] 0 []) = .fault (.memoryFault 0xFFFFFFFC#32 4 .write) := by rfl

/-- `pop r2` -/
theorem test_pop_pops :
    after (start 0x100 0xFFFC ⟨true, true, true, true⟩ [(2, 0x9)] [0x00, 0x61, 0x20, 0x00] 0xFFFC [0x11, 0x22, 0x33, 0x44])
      (fun t => t.reg 2 == 0x11223344 && t.flags == ⟨true, true, true, true⟩ && t.pc == 0x104 && t.sp == 0x10000 && bytesFrom t 0xFFFC 4 == [0x11, 0x22, 0x33, 0x44] && !t.halted && t.control == .machine) = true := by decide

theorem test_pop_empty :
    step (start 0x100 0x10000 ⟨true, true, true, true⟩ [(2, 0x9)] [0x00, 0x61, 0x20, 0x00] 0 []) = .fault (.memoryFault 0x10000#32 4 .read) := by rfl

/-- `pushm #0x8006` -/
theorem test_pushm_order :
    after (start 0x100 0x10000 ⟨true, true, true, true⟩ [(1, 0xA1), (2, 0xA2), (15, 0xAF)] [0x00, 0x62, 0x00, 0x00, 0x80, 0x06] 0 [])
      (fun t => t.flags == ⟨true, true, true, true⟩ && t.pc == 0x106 && t.sp == 0xFFF4 && bytesFrom t 0xFFF4 12 == [0x00, 0x00, 0x00, 0xA1, 0x00, 0x00, 0x00, 0xA2, 0x00, 0x00, 0x00, 0xAF] && !t.halted && t.control == .machine) = true := by decide

theorem test_pushm_second_slot_faults :
    step (start 0x100 0x4 ⟨true, true, true, true⟩ [(0, 0x1), (1, 0x2)] [0x00, 0x62, 0x00, 0x00, 0x00, 0x03] 0 []) = .fault (.memoryFault 0xFFFFFFFC#32 4 .write) := by rfl

/-- `popm #0x8006` -/
theorem test_popm_order :
    after (start 0x100 0xFFF4 ⟨true, true, true, true⟩ [(1, 0x0), (2, 0x0), (15, 0x0)] [0x00, 0x63, 0x00, 0x00, 0x80, 0x06] 0xFFF4 [0x00, 0x00, 0x00, 0xA1, 0x00, 0x00, 0x00, 0xA2, 0x00, 0x00, 0x00, 0xAF])
      (fun t => t.reg 1 == 0xA1 && t.reg 2 == 0xA2 && t.reg 15 == 0xAF && t.flags == ⟨true, true, true, true⟩ && t.pc == 0x106 && t.sp == 0x10000 && !t.halted && t.control == .machine) = true := by decide

theorem test_popm_second_slot_faults :
    step (start 0x100 0xFFFC ⟨true, true, true, true⟩ [(0, 0x7), (1, 0x7)] [0x00, 0x63, 0x00, 0x00, 0x00, 0x03] 0xFFFC [0x00, 0x00, 0x00, 0x01]) = .fault (.memoryFault 0x10000#32 4 .read) := by rfl

/-- `enter #16` -/
theorem test_enter_builds_frame :
    after (start 0x100 0xFFFC ⟨true, true, true, true⟩ [(15, 0x0)] [0x00, 0x64, 0x00, 0x00, 0x00, 0x10] 0 [])
      (fun t => t.reg 15 == 0xFFF8 && t.flags == ⟨true, true, true, true⟩ && t.pc == 0x106 && t.sp == 0xFFE8 && bytesFrom t 0xFFF8 4 == [0x00, 0x00, 0x00, 0x00] && !t.halted && t.control == .machine) = true := by decide

/-- `enter #0xFFFF` -/
theorem test_enter_size_unsigned :
    after (start 0x100 0x100 ⟨true, true, true, true⟩ [(15, 0x0)] [0x00, 0x64, 0x00, 0x00, 0xFF, 0xFF] 0 [])
      (fun t => t.reg 15 == 0xFC && t.flags == ⟨true, true, true, true⟩ && t.pc == 0x106 && t.sp == 0xFFFF00FD && !t.halted && t.control == .machine) = true := by decide

/-- `leave` -/
theorem test_leave_restores :
    after (start 0x100 0xFFE8 ⟨true, true, true, true⟩ [(15, 0xFFF8)] [0x00, 0x65] 0xFFF8 [0xCA, 0xFE, 0x00, 0x00])
      (fun t => t.reg 15 == 0xCAFE0000 && t.flags == ⟨true, true, true, true⟩ && t.pc == 0x102 && t.sp == 0xFFFC && !t.halted && t.control == .machine) = true := by decide

theorem test_leave_misaligned :
    step (start 0x100 0xFFE8 ⟨true, true, true, true⟩ [(15, 0xFFFA)] [0x00, 0x65] 0 []) = .fault (.alignmentFault 0xFFFA#32) := by rfl

/-- `alloca r1` -/
theorem test_alloca_lowers_sp :
    after (start 0x100 0xFFE8 ⟨true, true, true, true⟩ [(1, 0x20)] [0x00, 0x66, 0x10, 0x00] 0 [])
      (fun t => t.flags == ⟨true, true, true, true⟩ && t.pc == 0x104 && t.sp == 0xFFC8 && !t.halted && t.control == .machine) = true := by decide

/-- `alloca r1` -/
theorem test_alloca_raises_sp :
    after (start 0x100 0xFFE8 ⟨true, true, true, true⟩ [(1, 0xFFFFFFFC)] [0x00, 0x66, 0x10, 0x00] 0 [])
      (fun t => t.flags == ⟨true, true, true, true⟩ && t.pc == 0x104 && t.sp == 0xFFEC && !t.halted && t.control == .machine) = true := by decide

/-- `jmp 0x001234` -/
theorem test_jmp_jumps :
    after (start 0x100 0x10000 ⟨true, true, true, true⟩ [] [0x00, 0x70, 0x00, 0x12, 0x34] 0 [])
      (fun t => t.flags == ⟨true, true, true, true⟩ && t.pc == 0x1234 && !t.halted && t.control == .machine) = true := by decide

/-- `jmpr r1` -/
theorem test_jmpr_odd_target :
    after (start 0x100 0x10000 ⟨true, true, true, true⟩ [(1, 0x2001)] [0x00, 0x71, 0x10, 0x00] 0 [])
      (fun t => t.flags == ⟨true, true, true, true⟩ && t.pc == 0x2001 && !t.halted && t.control == .machine) = true := by decide

/-- `call 0x000100` -/
theorem test_call_pushes_five_after :
    after (start 0x10 0x10000 ⟨true, true, true, true⟩ [] [0x00, 0x72, 0x00, 0x01, 0x00] 0 [])
      (fun t => t.flags == ⟨true, true, true, true⟩ && t.pc == 0x100 && t.sp == 0xFFFC && bytesFrom t 0xFFFC 4 == [0x00, 0x00, 0x00, 0x15] && !t.halted && t.control == .machine) = true := by decide

theorem test_call_below_memory :
    step (start 0x10 0x0 ⟨true, true, true, true⟩ [] [0x00, 0x72, 0x00, 0x01, 0x00] 0 []) = .fault (.memoryFault 0xFFFFFFFC#32 4 .write) := by rfl

/-- `calli r1` -/
theorem test_calli_pushes_four_after :
    after (start 0x20 0x10000 ⟨true, true, true, true⟩ [(1, 0x3000)] [0x00, 0x73, 0x10, 0x00] 0 [])
      (fun t => t.flags == ⟨true, true, true, true⟩ && t.pc == 0x3000 && t.sp == 0xFFFC && bytesFrom t 0xFFFC 4 == [0x00, 0x00, 0x00, 0x24] && !t.halted && t.control == .machine) = true := by decide

/-- `ret` -/
theorem test_ret_returns :
    after (start 0x100 0xFFFC ⟨true, true, true, true⟩ [] [0x00, 0x74] 0xFFFC [0x00, 0x00, 0x00, 0x15])
      (fun t => t.flags == ⟨true, true, true, true⟩ && t.pc == 0x15 && t.sp == 0x10000 && !t.halted && t.control == .machine) = true := by decide

theorem test_ret_empty :
    step (start 0x100 0x10000 ⟨true, true, true, true⟩ [] [0x00, 0x74] 0 []) = .fault (.memoryFault 0x10000#32 4 .read) := by rfl

/-- `reti` -/
theorem test_reti_delivers :
    after (start 0x100 0x10000 ⟨true, true, true, true⟩ [] [0x00, 0x75] 0 [])
      (fun t => t.flags == ⟨true, true, true, true⟩ && t.pc == 0x102 && !t.halted && t.control == .environment .intReturn) = true := by decide

/-- `bra -12` -/
theorem test_bra_backward :
    after (start 0x14 0x10000 ⟨true, true, true, true⟩ [] [0x00, 0x76, 0x00, 0xF4] 0 [])
      (fun t => t.flags == ⟨true, true, true, true⟩ && t.pc == 0xC && !t.halted && t.control == .machine) = true := by decide

/-- `bra -8` -/
theorem test_bra_wraps :
    after (start 0x2 0x10000 ⟨true, true, true, true⟩ [] [0x00, 0x76, 0x00, 0xF8] 0 [])
      (fun t => t.flags == ⟨true, true, true, true⟩ && t.pc == 0xFFFFFFFE && !t.halted && t.control == .machine) = true := by decide

/-- `bsr +8` -/
theorem test_bsr_pushes_and_branches :
    after (start 0x40 0x10000 ⟨true, true, true, true⟩ [] [0x00, 0x77, 0x00, 0x08] 0 [])
      (fun t => t.flags == ⟨true, true, true, true⟩ && t.pc == 0x4C && t.sp == 0xFFFC && bytesFrom t 0xFFFC 4 == [0x00, 0x00, 0x00, 0x44] && !t.halted && t.control == .machine) = true := by decide

/-- `cmp r1, r2` -/
theorem test_cmp_less_through_v :
    after (start 0x100 0x10000 ⟨true, true, true, true⟩ [(1, 0x80000000), (2, 0x1)] [0x00, 0x80, 0x12, 0x00] 0 [])
      (fun t => t.flags == ⟨false, false, false, true⟩ && t.pc == 0x104 && !t.halted && t.control == .machine) = true := by decide

/-- `cmp r1, r2` -/
theorem test_cmp_borrows :
    after (start 0x100 0x10000 ⟨true, true, true, true⟩ [(1, 0x0), (2, 0xFFFFFFFF)] [0x00, 0x80, 0x12, 0x00] 0 [])
      (fun t => t.flags == ⟨false, false, true, false⟩ && t.pc == 0x104 && !t.halted && t.control == .machine) = true := by decide

/-- `cmpi r1, #0xFF` -/
theorem test_cmpi_immediate_unsigned :
    after (start 0x100 0x10000 ⟨true, true, true, true⟩ [(1, 0xFFFFFFFF)] [0x00, 0x81, 0x10, 0xFF] 0 [])
      (fun t => t.flags == ⟨false, true, false, false⟩ && t.pc == 0x104 && !t.halted && t.control == .machine) = true := by decide

/-- `tst r1, r1` -/
theorem test_tst_sets_n :
    after (start 0x100 0x10000 ⟨true, true, true, true⟩ [(1, 0x80000000)] [0x00, 0x82, 0x11, 0x00] 0 [])
      (fun t => t.flags == ⟨false, true, false, false⟩ && t.pc == 0x104 && !t.halted && t.control == .machine) = true := by decide

/-- `tsti r1, #1` -/
theorem test_tsti_even :
    after (start 0x100 0x10000 ⟨true, true, true, true⟩ [(1, 0x6)] [0x00, 0x83, 0x10, 0x01] 0 [])
      (fun t => t.flags == ⟨true, false, false, false⟩ && t.pc == 0x104 && !t.halted && t.control == .machine) = true := by decide

/-- `ifz mov r1, r2` -/
theorem test_ifz_mov_skipped :
    after (start 0x100 0x10000 ⟨false, false, false, false⟩ [(1, 0x0), (2, 0x7)] [0xA0, 0x10, 0x12, 0x00] 0 [])
      (fun t => t.reg 1 == 0x0 && t.flags == ⟨false, false, false, false⟩ && t.pc == 0x104 && !t.halted && t.control == .machine) = true := by decide

/-- `ifz mov r1, r2` -/
theorem test_ifz_mov_taken :
    after (start 0x100 0x10000 ⟨true, false, false, false⟩ [(1, 0x0), (2, 0x7)] [0xA0, 0x10, 0x12, 0x00] 0 [])
      (fun t => t.reg 1 == 0x7 && t.flags == ⟨true, false, false, false⟩ && t.pc == 0x104 && !t.halted && t.control == .machine) = true := by decide

/-- `ifnz halt` -/
theorem test_ifnz_halt_skipped :
    after (start 0x100 0x10000 ⟨true, true, true, true⟩ [] [0x20, 0x00] 0 [])
      (fun t => t.flags == ⟨true, true, true, true⟩ && t.pc == 0x102 && !t.halted && t.control == .machine) = true := by decide

/-- `ifnever trap #3` -/
theorem test_ifnever_trap_skipped :
    after (start 0x100 0x10000 ⟨true, true, true, true⟩ [] [0x80, 0x02, 0x00, 0x03] 0 [])
      (fun t => t.flags == ⟨true, true, true, true⟩ && t.pc == 0x104 && !t.halted && t.control == .machine) = true := by decide

/-! ## Fetch limits (95_test_vectors.md 2.2) -/

theorem test_halt_in_last_two_bytes :
    after (start 0xFFFE 0x10000 ⟨false, false, false, false⟩ [] [0x00, 0x00] 0 [])
      (fun t => t.halted && t.pc == 0x10000) = true := by decide

theorem test_operand_bytes_outside :
    step (start 0xFFFE 0x10000 ⟨false, false, false, false⟩ [] [0x00, 0x10] 0 []) = .fault (.fetchFault 0x10000#32) := by
  rfl

theorem test_never_jmp_outside :
    step (start 0xFFFC 0x10000 ⟨false, false, false, false⟩ [] [0x80, 0x70, 0x00, 0x00] 0 []) =
      .fault (.fetchFault 0x10000#32) := by rfl

theorem test_never_reserved_opcode :
    step (start 0x100 0x10000 ⟨false, false, false, false⟩ [] [0x80, 0x05] 0 []) =
      .fault (.illegalInstruction 0x100#32 0x8005#16 []) := by rfl

theorem test_never_pad :
    step (start 0x100 0x10000 ⟨false, false, false, false⟩ [] [0x80, 0x20, 0x31, 0x21] 0 []) =
      .fault (.illegalInstruction 0x100#32 0x8020#16 [0x31, 0x21]) := by rfl

/-- CMPF's flags are the open function of the two words (49_comparison.md R264). -/
theorem test_cmpf_flags :
    exec (.cmpf .always 1 2) (plain [(1, 3), (2, 4)]) =
      .next (((plain [(1, 3), (2, 4)]).setFlags (Config.cmpfFn 3#32 4#32)).setPc 0x104#32) := rfl

/-! ## The environment (60_exceptions.md R282 to R286) -/

theorem test_sys_exit_ends_the_run :
    after ((plain [(0, 20), (1, 7)]).setControl (.environment (.sysCall 20 7 0 0 0 0)))
      (fun t => t.control == .ended (some 7)) = true := by decide

theorem test_buffer_outside_refused :
    step ((plain []).setControl (.environment (.sysCall 10 1 0xFFFF 2 0 0))) =
      .refused (.bufferOutsideMemory 10#32) := by rfl

/-- A placed table word is the next instruction to run. -/
theorem test_withFetchWord :
    step (State.reset.withFetchWord 32 0x00203120) =
      exec (.add .always 3 1 2) (State.reset.withFetchWord 32 0x00203120) := by rfl

/-! ## The assembler (30_encoding.md R114 to R119; 95_test_vectors.md 1.1 to 1.6 and program P1) -/

/-- The bytes one line assembles to at address 0, `loop` standing at 0x00000C. -/
def line1 (t : String) : Except Assembler.AsmError (List Byte) :=
  (Assembler.instruction [("loop".toList, 0x0C#32)] 0#32 t.toList).map encode

theorem test_assembler_mnemonics : Assembler.mnemonics.map (·.2) = opcodeMap.map (·.1) := by decide

theorem test_assembler_prefix_syntax :
    line1 "ifz mov r1, r2" = .ok [0xA0, 0x10, 0x12, 0x00] ∧ line1 "ifnz jmp loop" = .ok [0x20, 0x70, 0x00, 0x00, 0x0C] ∧
      line1 "iflt add r3, r1, r2" = .ok [0xC0, 0x20, 0x31, 0x20] := ⟨rfl, rfl, rfl⟩

theorem test_assembler_traditional_syntax :
    line1 "movz r1, r2" = .ok [0xA0, 0x10, 0x12, 0x00] ∧ line1 "jnz loop" = .ok [0x20, 0x70, 0x00, 0x00, 0x0C] ∧
      line1 "addlt r3, r1, r2" = .ok [0xC0, 0x20, 0x31, 0x20] ∧
      line1 "subz r3, r1, r2" = .error (.noSuchMnemonic "subz".toList) := ⟨rfl, rfl, rfl, rfl⟩

theorem test_assembler_operands :
    line1 "load r1, [r5]" = .ok [0x00, 0x50, 0x15, 0x00] ∧ line1 "load r1, [r5+12]" = .ok [0x00, 0x50, 0x15, 0x0C] ∧
      line1 "store r1, [r15-4]" = .ok [0x00, 0x51, 0x1F, 0xFC] ∧ line1 "cmpi r1, #0b1010" = .ok [0x00, 0x81, 0x10, 0x0A] ∧
      line1 "movi r1, #0xFFFB" = .ok [0x00, 0x11, 0x10, 0x00, 0xFF, 0xFB] ∧ line1 "trap #256" = .error .outOfRange :=
  ⟨rfl, rfl, rfl, rfl, rfl, rfl⟩

theorem test_assembler_rejects_index_register :
    line1 "load r1, [r5+r6]" = .error (.indexRegister "r5+r6".toList) := rfl

theorem test_assembler_listing :
    Assembler.assemble 0#32
        ["movi r1, #10", "movi r0, #0", "loop: add r0, r0, r1", "dec r1", "ifnz bra loop ; back", "halt"] =
      .ok [0x00, 0x11, 0x10, 0x00, 0x00, 0x0A, 0x00, 0x11, 0x00, 0x00, 0x00, 0x00, 0x00, 0x20, 0x00, 0x10, 0x00, 0x28,
        0x10, 0x00, 0x20, 0x76, 0x00, 0xF4, 0x00, 0x00] := by rfl

/-! ## Cases that meet the statements' hypotheses -/

theorem witness_EncodeInvertsDecode : decode [0xC0, 0x20, 0x31, 0x20, 0xFF] = .ok (.add .lt 3 1 2, [0xFF]) := rfl

/-- The last instruction that fits in memory. -/
theorem witness_StepRunsDecodedInstruction :
    let s := start 0xFFFC 0x10000 ⟨false, true, false, false⟩ [] [0xC0, 0x20, 0x31, 0x20] 0 []
    s.Running ∧ decode [0xC0, 0x20, 0x31, 0x20] = .ok (.add .lt 3 1 2, []) ∧
      BytesAt s s.pc [0xC0, 0x20, 0x31, 0x20] :=
  ⟨⟨rfl, rfl⟩, rfl, by unfold BytesAt; decide⟩

theorem witness_FetchReadsMemoryOrFaults :
    (plain []).memSize ≤ (0x10000#32).toNat ∧ (0xFFFF#32).toNat < (plain []).memSize ∧
      ∃ t, (plain []).memWrite 0xFFFC#32 .word 0x11223344#32 = .ok t := ⟨by decide, by decide, _, rfl⟩

theorem witness_HeaderFetchFaults :
    (plain []).Running ∧ (plain []).memSize ≤ ((plain []).setPc 0x10000#32).pc.toNat ∧
      ((plain []).setPc 0xFFFF#32).pc.toNat < (plain []).memSize ∧
      (plain []).memSize ≤ (((plain []).setPc 0xFFFF#32).pc + 1#32).toNat :=
  ⟨⟨rfl, rfl⟩, by decide, by decide, by decide⟩

/-- Both checks under `never`: the smallest nonzero FLAGS field, and both ends of the reserved opcodes. -/
theorem witness_HeaderChecksFault :
    let s := fun b1 b2 => start 0x100 0x10000 ⟨false, false, false, false⟩ [] [b1, b2] 0 []
    ((s 0x81 0x00).Running ∧ BytesAt (s 0x81 0x00) 0x100#32 [0x81, 0x00] ∧ (0x81#8).toNat % 32 ≠ 0) ∧
    ((s 0x80 0x05).Running ∧ BytesAt (s 0x80 0x05) 0x100#32 [0x80, 0x05] ∧ (0x80#8).toNat % 32 = 0 ∧
      Reserved (0x05#8).toNat ∧ Reserved (0xFF#8).toNat) :=
  ⟨⟨⟨rfl, rfl⟩, by unfold BytesAt; decide, by decide⟩,
    ⟨rfl, rfl⟩, by unfold BytesAt; decide, by decide, by unfold Reserved; decide, by unfold Reserved; decide⟩

/-- A `never` JMP whose third operand byte is the first one outside memory. -/
theorem witness_OperandFetchFaults :
    let s := start 0xFFFC 0x10000 ⟨false, false, false, false⟩ [] [0x80, 0x70] 0 []
    s.Running ∧ BytesAt s s.pc [0x80, 0x70] ∧ (0x80#8).toNat % 32 = 0 ∧ layoutOf 0x70#8 = some .j ∧
      2 < Layout.j.operandBytes ∧ (∀ j, j < 2 → (s.pc + BitVec.ofNat 32 (2 + j)).toNat < s.memSize) ∧
      s.memSize ≤ (s.pc + BitVec.ofNat 32 (2 + 2)).toNat :=
  ⟨⟨rfl, rfl⟩, by unfold BytesAt; decide, by decide, rfl, by decide, by decide, by decide⟩

theorem witness_PadBitFaults :
    let s := start 0x100 0x10000 ⟨false, false, false, false⟩ [] [0x80, 0x20, 0x31, 0x21] 0 []
    s.Running ∧ BytesAt s s.pc [0x80, 0x20, 0x31, 0x21] ∧ (0x80#8).toNat % 32 = 0 ∧ layoutOf 0x20#8 = some .rrr ∧
      [0x31#8, 0x21#8].length = Layout.rrr.operandBytes ∧ wellFormedBytes [0x80, 0x20, 0x31, 0x21] = false :=
  ⟨⟨rfl, rfl⟩, by unfold BytesAt; decide, by decide, rfl, rfl, rfl⟩

theorem witness_FinishedRunChangesNothing :
    ((plain []).control = .machine ∧ ((plain []).setHalted true).halted = true) ∧
      ∃ code, ((plain []).setControl (.ended (some 7))).control = .ended code := ⟨⟨rfl, rfl⟩, _, rfl⟩

theorem witness_SkippedInstructionOnlyAdvancesPc : condHolds (Instr.div .never 3 1 2).cond (plain []).flags = false := rfl

theorem witness_ConditionTest :
    Holds .always (plain [(1, 5), (2, 7)]) ∧ ∃ t, exec (.cmp .always 1 2) (plain [(1, 5), (2, 7)]) = .next t :=
  ⟨rfl, _, rfl⟩

/-- A skipped store to an address outside memory. -/
theorem witness_NeverIsNoOperation :
    let s := start 0x100 0x10000 ⟨false, false, false, false⟩ [(5, 0x10000)] [0x80, 0x51, 0x15, 0x00] 0 []
    s.Running ∧ decode [0x80, 0x51, 0x15, 0x00] = .ok (.store .never 1 5 0#8, []) ∧
      [0x80#8, 0x51#8, 0x15#8, 0x00#8].head? = some 0x80#8 ∧ BytesAt s s.pc [0x80, 0x51, 0x15, 0x00] :=
  ⟨⟨rfl, rfl⟩, rfl, rfl, by unfold BytesAt; decide⟩

theorem witness_HaltSetsHalted : Holds .ge (plain []) := rfl

theorem witness_EventInstructionsDeliver : Holds .always (plain [(0, 30), (1, 0x2000), (2, 5)]) := rfl

theorem witness_DataMovementResults : Holds .ne (plain [(1, 0xFFFFFFFE), (5, 0xFFFFFFFF)]) := rfl

theorem witness_MoviThenMovhiBuildsConstant : Holds .always (plain []) ∧ Holds .gt (plain []) := ⟨rfl, rfl⟩

theorem witness_AdditionAndSubtractionFlags : Holds .always (plain [(1, 0x80000000), (2, 0xFFFFFFFF)]) := rfl

theorem witness_MultiplyResult : Holds .always (plain [(1, 0x10000), (2, 0x10000)]) := rfl

/-- One pair of operands for each clause. -/
theorem witness_DivisionRule :
    (Holds .always (plain [(1, 7), (2, 0)]) ∧ (plain [(1, 7), (2, 0)]).reg 2 = 0#32) ∧
    (Holds .always (plain [(1, 0x80000000), (2, 0xFFFFFFFF)]) ∧
      (plain [(1, 0x80000000), (2, 0xFFFFFFFF)]).reg 1 = 0x80000000#32 ∧
      (plain [(1, 0x80000000), (2, 0xFFFFFFFF)]).reg 2 = 0xFFFFFFFF#32) ∧
    (Holds .always (plain [(1, 0x80000001), (2, 0xFFFFFFFF)]) ∧
      (plain [(1, 0x80000001), (2, 0xFFFFFFFF)]).reg 2 ≠ 0#32 ∧
      ¬((plain [(1, 0x80000001), (2, 0xFFFFFFFF)]).reg 1 = 0x80000000#32 ∧
        (plain [(1, 0x80000001), (2, 0xFFFFFFFF)]).reg 2 = 0xFFFFFFFF#32)) :=
  ⟨⟨rfl, rfl⟩, ⟨rfl, rfl, rfl⟩, rfl, by decide, by decide⟩

theorem witness_AbsoluteValueResult : Holds .always (plain [(1, 0x80000000)]) := rfl

theorem witness_LogicalResults : Holds .always (plain [(1, 0xFF00FF00), (2, 0x0FF00FF0)]) := rfl

theorem witness_ShiftResults : Holds .always (plain [(1, 0x80000001), (2, 33)]) := rfl

/-- Each clause at the edge of memory, for the widest access. -/
theorem witness_MemReadRule :
    (0xFFFD#32).toNat % Width.word.bytes ≠ 0 ∧
    ((0x10000#32).toNat % Width.word.bytes = 0 ∧ (plain []).memSize < (0x10000#32).toNat + Width.word.bytes) ∧
    ((0xFFFC#32).toNat % Width.word.bytes = 0 ∧ (0xFFFC#32).toNat + Width.word.bytes ≤ (plain []).memSize) := by decide

theorem witness_MemWriteRule :
    (0xFFFF#32).toNat % Width.half.bytes ≠ 0 ∧
    ((0xFFFFFFFE#32).toNat % Width.half.bytes = 0 ∧
      (plain []).memSize < (0xFFFFFFFE#32).toNat + Width.half.bytes) ∧
    ((0xFFFE#32).toNat % Width.half.bytes = 0 ∧ (0xFFFE#32).toNat + Width.half.bytes ≤ (plain []).memSize) := by decide

theorem witness_NarrowReadsOfStoredWord : ∃ t, (plain []).memWrite 0xFFFC#32 .word 0x11223344#32 = .ok t := ⟨_, rfl⟩

/-- The last word, halfword and byte of memory, reached by a negative offset. -/
theorem witness_LoadResults :
    let s := plain [(5, 0x10000)]
    Holds .always s ∧ 0xFFFC#32 = s.reg 5 + (0xFC#8).signExtend 32 ∧ (0xFFFC#32).toNat % 4 = 0 ∧
      (0xFFFC#32).toNat + 4 ≤ s.memSize ∧ 0xFFFF#32 = s.reg 5 + (0xFF#8).signExtend 32 ∧
      (0xFFFF#32).toNat + 1 ≤ s.memSize ∧ 0xFFFE#32 = s.reg 5 + (0xFE#8).signExtend 32 ∧
      (0xFFFE#32).toNat % 2 = 0 ∧ (0xFFFE#32).toNat + 2 ≤ s.memSize :=
  ⟨rfl, by decide, by decide, by decide, by decide, by decide, by decide, by decide, by decide⟩

/-- The first word of memory, reached by a wrapping sum. -/
theorem witness_StoreResults :
    let s := plain [(1, 0xAABBCCDD), (5, 0xFFFFFFFF)]
    Holds .always s ∧ 0#32 = s.reg 5 + (0x01#8).signExtend 32 ∧ (0#32).toNat % 4 = 0 ∧ (0#32).toNat + 4 ≤ s.memSize ∧
      (0#32).toNat % 2 = 0 ∧ (0#32).toNat + 2 ≤ s.memSize ∧ (0#32).toNat + 1 ≤ s.memSize :=
  ⟨rfl, by decide, by decide, by decide, by decide, by decide, by decide⟩

/-- A misaligned address beyond memory, and the first aligned address beyond memory. -/
theorem witness_LoadStoreFaults :
    let s := plain [(5, 0x10000)]
    Holds .always s ∧ (0x10001#32 = s.reg 5 + (0x01#8).signExtend 32 ∧ (0x10001#32).toNat % 4 ≠ 0 ∧
      (0x10001#32).toNat % 2 ≠ 0) ∧
      (0x10000#32 = s.reg 5 + (0x00#8).signExtend 32 ∧ (0x10000#32).toNat % 4 = 0 ∧
        s.memSize < (0x10000#32).toNat + 4 ∧ (0x10000#32).toNat % 2 = 0 ∧ s.memSize < (0x10000#32).toNat + 2 ∧
        s.memSize < (0x10000#32).toNat + 1) :=
  ⟨rfl, ⟨by decide, by decide, by decide⟩, by decide, by decide, by decide, by decide, by decide, by decide⟩

/-- The empty stack, the full stack, a misaligned SP, and a memory of all addresses. -/
theorem witness_PushAndPopRules :
    (((plain []).setSp 0xFFFE#32).sp - 4#32).toNat % 4 ≠ 0 ∧
    ((((plain []).setSp 0#32).sp - 4#32).toNat % 4 = 0 ∧
      (plain []).memSize < (((plain []).setSp 0#32).sp - 4#32).toNat + 4) ∧
    (((plain []).sp - 4#32).toNat % 4 = 0 ∧ ((plain []).sp - 4#32).toNat + 4 ≤ (plain []).memSize) ∧
    ((plain []).memSizeLegal ∧ (plain []).sp = BitVec.ofNat 32 (plain []).memSize ∧ (plain []).memSize < 2 ^ 32) ∧
    ((State.launch (2 ^ 32) 0 (Vector.replicate 16 0) ⟨false, false, false, false⟩ []).sp = BitVec.ofNat 32 (2 ^ 32)) :=
  ⟨by decide, by decide, by decide, ⟨by unfold State.memSizeLegal; decide, by decide, by decide⟩, by decide⟩

/-- The lowest slot for PUSH, the highest for POP. -/
theorem witness_PushPopResults :
    Holds .always (plain []) ∧ SlotOk ((plain []).setSp 4#32) (((plain []).setSp 4#32).sp - 4#32) ∧
      SlotOk ((plain []).setSp 0xFFFC#32) ((plain []).setSp 0xFFFC#32).sp :=
  ⟨rfl, by unfold SlotOk; decide, by unfold SlotOk; decide⟩

theorem witness_PushmResult :
    Holds .always (plain []) ∧ DownFrom 0x8006#16 [15, 2, 1] ∧
      (∀ j, j < 3 → SlotOk ((plain []).setSp 12#32) (pushSlot ((plain []).setSp 12#32) j)) ∧ DownFrom 0#16 [] :=
  ⟨rfl, by unfold DownFrom; decide, by unfold SlotOk; decide, by unfold DownFrom; decide⟩

theorem witness_PopmResult :
    Holds .always (plain []) ∧ UpFrom 0x8006#16 [1, 2, 15] ∧
      (∀ j, j < 3 → SlotOk ((plain []).setSp 0xFFF4#32) (popSlot ((plain []).setSp 0xFFF4#32) j)) ∧ UpFrom 0#16 [] :=
  ⟨rfl, by unfold UpFrom; decide, by unfold SlotOk; decide, by unfold UpFrom; decide⟩

theorem witness_PopmAfterPushmRestores :
    ∃ t u, Holds .always (plain [(1, 0xA1), (15, 0xAF)]) ∧
      exec (.pushm .always 0x8002#16) (plain [(1, 0xA1), (15, 0xAF)]) = .next t ∧ u.sp = t.sp ∧ u.mem = t.mem ∧
      u.memSize = t.memSize ∧ Holds .ne u := ⟨_, _, rfl, rfl, rfl, rfl, rfl, rfl⟩

/-- The second slot is outside memory, for both directions; the first is misaligned. -/
theorem witness_PushmPopmFaults :
    let s := (plain []).setSp 4#32
    let u := (plain []).setSp 0xFFFC#32
    let m := (plain []).setSp 0xFFFE#32
    (Holds .always s ∧ 1 < [1, 0].length ∧ DownFrom 0x0003#16 [1, 0] ∧ (∀ i, i < 1 → SlotOk s (pushSlot s i)) ∧
      (pushSlot s 1).toNat % 4 = 0 ∧ s.memSize < (pushSlot s 1).toNat + 4) ∧
    (UpFrom 0x0003#16 [0, 1] ∧ (∀ i, i < 1 → SlotOk u (popSlot u i)) ∧ (popSlot u 1).toNat % 4 = 0 ∧
      u.memSize < (popSlot u 1).toNat + 4) ∧
    ((pushSlot m 0).toNat % 4 ≠ 0 ∧ (popSlot m 0).toNat % 4 ≠ 0) :=
  ⟨⟨rfl, by decide, by unfold DownFrom; decide, by unfold SlotOk; decide, by decide, by decide⟩,
    ⟨by unfold UpFrom; decide, by unfold SlotOk; decide, by decide, by decide⟩, by decide, by decide⟩

theorem witness_FrameInstructionResults :
    Holds .always (plain [(15, 0xFFFC)]) ∧ SlotOk (plain [(15, 0xFFFC)]) ((plain [(15, 0xFFFC)]).sp - 4#32) ∧
      SlotOk (plain [(15, 0xFFFC)]) ((plain [(15, 0xFFFC)]).reg 15) :=
  ⟨rfl, by unfold SlotOk; decide, by unfold SlotOk; decide⟩

theorem witness_LeaveUndoesEnter :
    ∃ t u, Holds .always (plain [(15, 0x1234)]) ∧ exec (.enter .always 8#16) (plain [(15, 0x1234)]) = .next t ∧
      u.reg 15 = t.reg 15 ∧ u.memSize = t.memSize ∧ Holds .always u ∧ u.sp ≠ t.sp ∧
      ∀ k, k < 4 → u.mem.read ((t.reg 15).toNat + k) = t.mem.read ((t.reg 15).toNat + k) := by
  refine ⟨_, ((plain [(15, 0x1234)]).pushAll [15]).toOption.getD default |>.setReg 15 0xFFFC |>.setSp 3, rfl, rfl, ?_⟩
  exact ⟨by decide, by decide, rfl, by decide, by decide⟩

/-- Each clause at its edge: a misaligned slot, the slot below memory, a misaligned and an empty stack, R15 likewise. -/
theorem witness_StackFaults :
    let s := fun sp fp => (plain [(15, fp)]).setSp sp
    Holds .always (s 0 0) ∧ ((s 0xFFFE 0).sp - 4#32).toNat % 4 ≠ 0 ∧
      (((s 0 0).sp - 4#32).toNat % 4 = 0 ∧ (s 0 0).memSize < ((s 0 0).sp - 4#32).toNat + 4) ∧
      (s 0xFFFE 0).sp.toNat % 4 ≠ 0 ∧
      ((s 0x10000 0).sp.toNat % 4 = 0 ∧ (s 0x10000 0).memSize < (s 0x10000 0).sp.toNat + 4) ∧
      ((s 0 0xFFFA).reg 15).toNat % 4 ≠ 0 ∧
      (((s 0 0x10000).reg 15).toNat % 4 = 0 ∧ (s 0 0x10000).memSize < ((s 0 0x10000).reg 15).toNat + 4) :=
  ⟨rfl, by decide, by decide, by decide, by decide, by decide, by decide⟩

theorem witness_JumpResults : Holds .always (plain [(1, 0xFFFFFFFF)]) := rfl

theorem witness_JumpRegisterRule :
    let s := start 0x100 0x10000 ⟨false, false, false, false⟩ [(1, 0x2000), (2, 0xFFFFFFFF)] [0x00, 0x71, 0x10, 0x00] 0 []
    let q := start 0x100 0x10000 ⟨false, false, false, false⟩ [] [0xE0, 0x71, 0x11, 0x00] 0 []
    (Holds .always s ∧ s.Running ∧ s.memSize ≤ (s.reg 2).toNat) ∧
      (q.Running ∧ BytesAt q q.pc [0xE0, 0x71, 0x11, 0x00] ∧ (0xE0#8).toNat % 2 ^ 5 = 0 ∧ (0x11#8).toNat % 2 ^ 4 ≠ 0) ∧
      s.Running ∧ BytesAt s s.pc [0x00, 0x71, 0x10, 0x00] ∧ s.reg 1 = 0x00002000#32 :=
  ⟨⟨rfl, ⟨rfl, rfl⟩, by decide⟩, ⟨⟨rfl, rfl⟩, by unfold BytesAt; decide, by decide, by decide⟩, ⟨rfl, rfl⟩,
    by unfold BytesAt; decide, rfl⟩

theorem witness_CallAndReturnResults :
    Holds .always (plain []) ∧ SlotOk ((plain []).setSp 4#32) (((plain []).setSp 4#32).sp - 4#32) ∧
      SlotOk ((plain []).setSp 0xFFFC#32) ((plain []).setSp 0xFFFC#32).sp :=
  ⟨rfl, by unfold SlotOk; decide, by unfold SlotOk; decide⟩

theorem witness_ReturnGoesBehindTheCall :
    ∃ t u, (∃ addr, Instr.call .always 0x000100#24 = .call .always addr) ∧ Holds .always (plain []) ∧
      exec (.call .always 0x000100#24) (plain []) = .next t ∧ u.sp = t.sp ∧ u.memSize = t.memSize ∧ Holds .always u ∧
      ∀ k, k < 4 → u.mem.read (t.sp.toNat + k) = t.mem.read (t.sp.toNat + k) :=
  ⟨_, _, ⟨_, rfl⟩, rfl, rfl, rfl, rfl, rfl, fun _ _ => rfl⟩

theorem witness_TestResults : Holds .always (plain [(1, 0xF0), (2, 0x0F)]) := rfl

theorem witness_CompareFloatDependsOnTheTwoWords : Holds .always (plain [(1, 3), (2, 4)]) := rfl

theorem witness_SystemCallPreserves :
    ∃ e t, Holds .always (plain [(0, 12)]) ∧ (plain [(0, 12)]).halted = false ∧ (plain [(0, 12)]).reg 0 ≠ 20#32 ∧
      exec (.syscall .always) (plain [(0, 12)]) = .next e ∧ step e = .next t :=
  ⟨_, _, rfl, rfl, by decide, rfl, rfl⟩

/-- The last byte of memory as the buffer, and a call that writes none. -/
theorem witness_SystemCallWritesOnlyItsBuffer :
    (∃ e t, Holds .always (plain [(0, 10), (2, 0xFFFF), (3, 1)]) ∧
      exec (.syscall .always) (plain [(0, 10), (2, 0xFFFF), (3, 1)]) = .next e ∧ step e = .next t ∧
      (plain [(0, 10), (2, 0xFFFF), (3, 1)]).reg 0 = 10#32) ∧
    ∃ e t, exec (.syscall .always) (plain [(0, 13)]) = .next e ∧ step e = .next t ∧
      (plain [(0, 13)]).reg 0 = 13#32 :=
  ⟨⟨_, _, rfl, rfl, rfl, by decide⟩, _, _, rfl, rfl, by decide⟩

/-- Each clause at the end of memory: the last buffer inside, the first outside. -/
theorem witness_StandardCallsAreAnswered :
    let s := fun n a b c => plain [(0, n), (1, a), (2, b), (3, c)]
    (∃ e, Holds .always (s 12 0 0 0) ∧ exec (.syscall .always) (s 12 0 0 0) = .next e ∧ (s 12 0 0 0).reg 0 = 12#32) ∧
    (∃ e, exec (.syscall .always) (s 10 0 0xFFFF 1) = .next e ∧
      ((s 10 0 0xFFFF 1).reg 2).toNat + ((s 10 0 0xFFFF 1).reg 3).toNat ≤ (s 10 0 0xFFFF 1).memSize) ∧
    (∃ e, exec (.syscall .always) (s 30 0xFFFF 1 0) = .next e ∧
      ((s 30 0xFFFF 1 0).reg 1).toNat + ((s 30 0xFFFF 1 0).reg 2).toNat ≤ (s 30 0xFFFF 1 0).memSize) ∧
    (∃ e, exec (.syscall .always) (s 11 0 0xFFFF 2) = .next e ∧ (s 11 0 0xFFFF 2).reg 3 ≠ 0#32 ∧
      (s 11 0 0xFFFF 2).memSize < ((s 11 0 0xFFFF 2).reg 2).toNat + ((s 11 0 0xFFFF 2).reg 3).toNat) ∧
    (∃ e, exec (.syscall .always) (s 30 0xFFFF 2 0) = .next e ∧ (s 30 0xFFFF 2 0).reg 2 ≠ 0#32 ∧
      (s 30 0xFFFF 2 0).memSize < ((s 30 0xFFFF 2 0).reg 1).toNat + ((s 30 0xFFFF 2 0).reg 2).toNat) :=
  ⟨⟨_, rfl, rfl, by decide⟩, ⟨_, rfl, by decide⟩, ⟨_, rfl, by decide⟩, ⟨_, rfl, by decide, by decide⟩,
    _, rfl, by decide, by decide⟩

theorem witness_SysExitEndsTheRun :
    ∃ e, Holds .always (plain [(0, 20), (1, 7)]) ∧ (plain [(0, 20), (1, 7)]).reg 0 = 20#32 ∧
      exec (.syscall .always) (plain [(0, 20), (1, 7)]) = .next e := ⟨_, rfl, by decide, rfl⟩

theorem witness_OtherEventsAreAnswered :
    ((plain []).setControl (.environment (.trap 3))).control = .environment (.trap 3) ∧
      ∃ n, Event.trap 3 = .trap n := ⟨rfl, _, rfl⟩

/-- A store in a memory of sixteen bytes. -/
theorem witness_StepKeepsInvariant :
    let s := (State.launch 16 0 (Vector.replicate 16 0) ⟨false, false, false, false⟩
      [(1, 0x51), (2, 0x12), (9, 0x7F)])
    s.Inv ∧ ∃ t, step s = .next t :=
  ⟨⟨by unfold State.memSizeLegal; decide, by decide, by decide, .inl rfl⟩, _, rfl⟩

/-- The smallest and the largest memory. -/
theorem witness_LaunchMeetsInvariant :
    (4 ≤ 4 ∧ 4 ≤ 2 ^ 32 ∧ 4 % 4 = 0 ∧ Memory.wf [(3, 0x7F#8)] = true ∧ Memory.below [(3, 0x7F#8)] 4 = true) ∧
    (4 ≤ 2 ^ 32 ∧ 2 ^ 32 % 4 = 0 ∧ Memory.below [(2 ^ 32 - 1, 0x7F#8)] (2 ^ 32) = true) := by decide

theorem witness_LaunchSetsStackToTop : 4 ≤ 2 ^ 32 ∧ 2 ^ 32 ≤ 2 ^ 32 ∧ 2 ^ 32 % 4 = 0 := by decide

theorem witness_OnlyFourFamiliesWriteFlags :
    (∃ t, exec (.store .always 1 5 0#8) (plain []) = .next t) ∧
      ¬((0x20 ≤ opcode (.store .always 1 5 0#8) ∧ opcode (.store .always 1 5 0#8) ≤ 0x4F) ∨
        0x80 ≤ opcode (.store .always 1 5 0#8)) := ⟨⟨_, rfl⟩, by decide⟩

theorem witness_OnlyStackInstructionsWriteSp :
    (∃ t, exec (.jmp .always 0#24) (plain []) = .next t) ∧
      ¬(0x60 ≤ opcode (.jmp .always 0#24) ∧ opcode (.jmp .always 0#24) ≤ 0x66) ∧
      opcode (.jmp .always 0#24) ∉ [0x72, 0x73, 0x74, 0x77] := ⟨⟨_, rfl⟩, by decide, by decide⟩

theorem witness_OnlyStoresAndPushesWriteMemory :
    (∃ t, exec (.load .always 1 5 0#8) (plain []) = .next t) ∧
      opcode (.load .always 1 5 0#8) ∉ [0x51, 0x53, 0x55, 0x60, 0x62, 0x64, 0x72, 0x73, 0x77] :=
  ⟨⟨_, rfl⟩, by decide⟩

theorem witness_OtherInstructionsAdvancePc :
    (∃ t, exec (.halt .always) ((plain []).setPc 0xFFFFFFFF#32) = .next t) ∧
      opcode (.halt .always) ∉ [0x70, 0x71, 0x72, 0x73, 0x74, 0x76, 0x77] := ⟨⟨_, rfl⟩, by decide⟩

theorem witness_OnlyDestinationsAreWritten :
    (∃ t, exec (.popm .always 0x8000#16) ((plain []).setSp 0xFFFC#32) = .next t) ∧
      ¬MayWrite (.popm .always 0x8000#16) 14 := ⟨⟨_, rfl⟩, by unfold MayWrite; decide⟩

theorem witness_OnlyHaltHaltsAndOnlyEventsHandOver :
    (∃ t, exec (.add .always 1 2 3) (plain []) = .next t) ∧ opcode (.add .always 1 2 3) ≠ 0x00 ∧
      opcode (.add .always 1 2 3) ∉ [0x01, 0x02, 0x03, 0x04, 0x75] := ⟨⟨_, rfl⟩, by decide, by decide⟩

theorem witness_CanonicalMemoriesThatReadAlikeAreEqual :
    Memory.wf [(3, 0x7F#8)] = true ∧ Memory.wf ((Memory.write [] 3 0x7F#8).write 4 0#8) = true ∧
      ∀ a, Memory.read [(3, 0x7F#8)] a = Memory.read ((Memory.write [] 3 0x7F#8).write 4 0#8) a :=
  ⟨rfl, rfl, fun _ => rfl⟩

end Sys2Proof.Tests
end

/-! PROOFS. Where the stack stands after a launch, and what the first push there stores (10_state.md R36). -/

namespace Sys2Proof.Machine

/-! ## What a store and a push put in memory -/

/-- The bytes of a store of any width are the ones the statements' `Stored` names, and no other byte changes
(20_memory.md R58). -/
theorem Memory.stored_writeWidth (m : Memory) (a : Nat) (w : Width) (v : Word) :
    Statements.Stored m (m.writeBytes a (w.split v)) a w.bytes v := by
  refine ⟨fun k hk => ?_, fun _ hq => m.read_writeWidth_other a w v hq⟩
  have hk' : k < (w.split v).length := by simpa using hk
  rw [m.read_writeBytes_same a _ k hk', w.split_toNat v k hk']

/-- A push into a slot that is aligned and inside memory stores the word there and moves SP to it
(20_memory.md R61). -/
theorem State.push_of_slotOk {s : State} (h : Statements.SlotOk s (s.sp - 4#32)) (v : Word) :
    ∃ m, Statements.Stored s.mem m (s.sp - 4#32).toNat 4 v ∧
      s.push v = .ok ((s.setMem m).setSp (s.sp - 4#32)) :=
  ⟨_, s.mem.stored_writeWidth _ .word v, (s.push_ok v _).mpr ⟨h, rfl⟩⟩

/-! ## The state of a launch -/

@[simp] theorem State.launch_sp (n : Nat) (p : Word) (rs : Vector Word 16) (f : Flags) (m : Memory) :
    (State.launch n p rs f m).sp = BitVec.ofNat 32 n := rfl

@[simp] theorem State.launch_mem (n : Nat) (p : Word) (rs : Vector Word 16) (f : Flags) (m : Memory) :
    (State.launch n p rs f m).mem = m := rfl

@[simp] theorem State.launch_memSize (n : Nat) (p : Word) (rs : Vector Word 16) (f : Flags) (m : Memory) :
    (State.launch n p rs f m).memSize = n := rfl

/-- Four below the top of memory as a word, also where the top itself wraps to 0. -/
theorem ofNat_sub_four {n : Nat} (h : 4 ≤ n) : BitVec.ofNat 32 n - 4#32 = BitVec.ofNat 32 (n - 4) := by
  rw [BitVec.sub_eq_iff_eq_add, BitVec.ofNat_add_ofNat, Nat.sub_add_cancel h]

/-- The last word of a memory of at most `2^32` bytes starts at an address a word can hold. -/
theorem lastWord_toNat {n : Nat} (h : 4 ≤ n) (h' : n ≤ 2 ^ 32) : (BitVec.ofNat 32 (n - 4)).toNat = n - 4 := by
  rw [BitVec.toNat_ofNat, Nat.mod_eq_of_lt (by omega)]

/-- The slot of the first push after a launch is the last word of memory, aligned and inside it
(10_state.md R36). -/
theorem State.launch_slotOk {n : Nat} (h : 4 ≤ n) (h' : n ≤ 2 ^ 32) (h4 : n % 4 = 0) (p : Word)
    (rs : Vector Word 16) (f : Flags) (m : Memory) :
    Statements.SlotOk (State.launch n p rs f m) (BitVec.ofNat 32 (n - 4)) := by
  rw [Statements.SlotOk, lastWord_toNat h h', State.launch_memSize]
  omega

/-- Settles O53: SP is one past the last byte, so the slot of the first push is the last word of memory, and the rule
for a push into a slot inside memory gives the rest. -/
theorem launchSetsStackToTop : Obligations.LaunchSetsStackToTop := by
  intro n p rs f m h h' h4
  refine ⟨by rw [State.launch_sp, BitVec.toNat_ofNat], fun v => ?_⟩
  have slot : (State.launch n p rs f m).sp - 4#32 = BitVec.ofNat 32 (n - 4) := by
    rw [State.launch_sp, ofNat_sub_four h]
  have ok := State.launch_slotOk h h' h4 p rs f m
  rw [← slot] at ok
  obtain ⟨m', stored, pushed⟩ := State.push_of_slotOk ok v
  rw [State.launch_mem, slot, lastWord_toNat h h'] at stored
  rw [slot] at pushed
  exact ⟨m', stored, pushed⟩

end Sys2Proof.Machine

/-! PROOFS. Reading, writing and fetching bytes of memory, and the stack primitives (20_memory.md R57 to R62). -/

namespace Sys2Proof.Machine

/-! ## The bytes of a value that was read -/

/-- A byte read from memory, as a number (20_memory.md R53). -/
theorem Memory.readByte_toNat (m : Memory) (a : Nat) : (m.readWidth a .byte).toNat = (m.read a).toNat := by
  rw [Memory.readWidth, BitVec.toNat_setWidth_of_le (by decide)]

/-- A halfword read from memory, as a number (20_memory.md R53). -/
theorem Memory.readHalf_toNat (m : Memory) (a : Nat) :
    (m.readWidth a .half).toNat = (m.read a).toNat * 2 ^ 8 + (m.read (a + 1)).toNat := by
  rw [Memory.readWidth, BitVec.toNat_setWidth_of_le (by decide), BitVec.toNat_append,
    ← Nat.shiftLeft_add_eq_or_of_lt (m.read (a + 1)).isLt, Nat.shiftLeft_eq]

/-- A value read with a width fits in that width (20_memory.md R57). -/
theorem Memory.readWidth_lt (m : Memory) (a : Nat) (w : Width) : (m.readWidth a w).toNat < 2 ^ (8 * w.bytes) := by
  cases w with
  | byte => rw [Memory.readByte_toNat]; exact (m.read a).isLt
  | half =>
    have := (m.read a).isLt
    have := (m.read (a + 1)).isLt
    rw [Memory.readHalf_toNat, Width.bytes]
    omega
  | word => exact (m.readWidth a .word).isLt

/-- The bytes of a value that was read are memory's, the one at the lowest address most significant
(20_memory.md R53, R57). -/
theorem Memory.readWidth_byte (m : Memory) (a : Nat) (w : Width) {k : Nat} (hk : k < w.bytes) :
    (m.readWidth a w).toNat / 2 ^ (8 * (w.bytes - 1 - k)) % 2 ^ 8 = (m.read (a + k)).toNat := by
  have := (m.read a).isLt
  have := (m.read (a + 1)).isLt
  have := (m.read (a + 2)).isLt
  have := (m.read (a + 3)).isLt
  have lowest : (m.read (a + 0)).toNat = (m.read a).toNat := rfl
  cases w <;> simp only [Width.bytes] at hk ⊢
  case byte =>
    obtain rfl : k = 0 := by omega
    rw [Memory.readByte_toNat]
    omega
  case half =>
    rw [Memory.readHalf_toNat]
    obtain rfl | rfl : k = 0 ∨ k = 1 := by omega
    all_goals omega
  case word =>
    rw [Memory.readWord_toNat]
    obtain rfl | rfl | rfl | rfl : k = 0 ∨ k = 1 ∨ k = 2 ∨ k = 3 := by omega
    all_goals omega

/-! ## Data access -/

/-- Settles O25: the two faults are those of the access, and a read that answers gives memory's bytes. -/
theorem memReadRule : Obligations.MemReadRule := by
  intro s addr w
  refine ⟨fun misaligned => ?_, fun aligned outside => ?_, fun aligned inside => ?_⟩
  · exact (s.memRead_error addr w _).mpr (s.accessFault_misaligned addr w .read misaligned)
  · exact (s.memRead_error addr w _).mpr (s.accessFault_outside addr w .read aligned outside)
  · exact ⟨_, (s.memRead_ok addr w _).mpr ⟨⟨aligned, inside⟩, rfl⟩, s.mem.readWidth_lt _ w,
      fun _ hk => s.mem.readWidth_byte _ w hk⟩

/-- Settles O26: the two faults are those of the access, and a write that answers changes memory alone, by the bytes
stored. -/
theorem memWriteRule : Obligations.MemWriteRule := by
  intro s addr w v
  refine ⟨fun misaligned => ?_, fun aligned outside => ?_, fun aligned inside => ?_⟩
  · exact (s.memWrite_error addr w v _).mpr (s.accessFault_misaligned addr w .write misaligned)
  · exact (s.memWrite_error addr w v _).mpr (s.accessFault_outside addr w .write aligned outside)
  · exact ⟨_, (s.memWrite_ok addr w v _).mpr ⟨⟨aligned, inside⟩, rfl⟩, s.mem.stored_writeWidth _ w v⟩

/-! ## Fetching what was stored -/

/-- Every byte of a completed store can be fetched, from the memory the store left (20_memory.md R59, R69). -/
theorem State.fetchByte_of_memWrite {s t : State} {a : Word} {w : Width} {v : Word} (h : s.memWrite a w v = .ok t)
    {k : Nat} (hk : k < w.bytes) :
    ∃ b : Byte, t.fetchByte (a + BitVec.ofNat 32 k) = .ok b ∧
      b.toNat = v.toNat / 2 ^ (8 * (w.bytes - 1 - k)) % 2 ^ 8 := by
  obtain ⟨⟨aligned, inside⟩, rfl⟩ := (s.memWrite_ok a w v t).mp h
  obtain ⟨stored, -⟩ := s.mem.stored_writeWidth a.toNat w v
  have address := aligned_add_toNat aligned hk
  refine ⟨_, State.fetchByte_inside ?_, ?_⟩
  · rw [address, State.setMem_memSize]
    omega
  · rw [address, State.setMem_mem]
    exact stored k hk

/-- Settles O6: a fetch is a range check and a read of the memory that stores write. -/
theorem fetchReadsMemoryOrFaults : Obligations.FetchReadsMemoryOrFaults :=
  fun _ _ => ⟨State.fetchByte_outside, State.fetchByte_inside, fun _ _ _ _ h _ => State.fetchByte_of_memWrite h⟩

/-! ## The stack primitives -/

/-- A push whose slot is misaligned faults there (20_memory.md R61). -/
theorem State.push_of_misaligned {s : State} (h : (s.sp - 4#32).toNat % 4 ≠ 0) (v : Word) :
    s.push v = .error (.alignmentFault (s.sp - 4#32)) :=
  (s.push_error v _).mpr (s.accessFault_misaligned _ .word .write h)

/-- A push whose aligned slot does not lie inside memory faults with its write (20_memory.md R61). -/
theorem State.push_of_outside {s : State} (h : (s.sp - 4#32).toNat % 4 = 0)
    (h' : s.memSize < (s.sp - 4#32).toNat + 4) (v : Word) :
    s.push v = .error (.memoryFault (s.sp - 4#32) 4 .write) :=
  (s.push_error v _).mpr (s.accessFault_outside _ .word .write h h')

/-- A pop with a misaligned SP faults there (20_memory.md R62). -/
theorem State.pop_of_misaligned {s : State} (h : s.sp.toNat % 4 ≠ 0) : s.pop = .error (.alignmentFault s.sp) :=
  (s.pop_error _).mpr (s.accessFault_misaligned _ .word .read h)

/-- A pop whose aligned slot does not lie inside memory faults with its read (20_memory.md R62). -/
theorem State.pop_of_outside {s : State} (h : s.sp.toNat % 4 = 0) (h' : s.memSize < s.sp.toNat + 4) :
    s.pop = .error (.memoryFault s.sp 4 .read) :=
  (s.pop_error _).mpr (s.accessFault_outside _ .word .read h h')

/-- A pop from a slot that is aligned and inside memory answers the word there and raises SP (20_memory.md R62). -/
theorem State.pop_of_slotOk {s : State} (h : Statements.SlotOk s s.sp) :
    ∃ v, Statements.WordAt s.mem s.sp.toNat v ∧ s.pop = .ok (v, s.setSp (s.sp + 4#32)) :=
  ⟨_, s.mem.readWord_toNat _, (s.pop_ok _ _).mpr ⟨h, rfl, rfl⟩⟩

/-- A pop of the empty stack faults where the top of memory is an address: the slot lies just behind memory
(20_memory.md R62). -/
theorem State.pop_of_empty {s : State} (legal : s.memSizeLegal) (top : s.sp = BitVec.ofNat 32 s.memSize)
    (small : s.memSize < 2 ^ 32) : s.pop = .error (.memoryFault s.sp 4 .read) := by
  obtain ⟨-, -, multiple⟩ := legal
  have sp : s.sp.toNat = s.memSize := by rw [top, BitVec.toNat_ofNat, Nat.mod_eq_of_lt small]
  exact State.pop_of_outside (by omega) (by omega)

/-- A pop of the empty stack in a memory of all addresses reads address 0, where SP has wrapped to
(20_memory.md R62). -/
theorem State.pop_of_empty_full {s : State} (full : s.memSize = 2 ^ 32) (top : s.sp = BitVec.ofNat 32 s.memSize) :
    ∃ v : Word, s.sp = 0#32 ∧ Statements.WordAt s.mem 0 v ∧ s.pop = .ok (v, s.setSp 4#32) := by
  have sp : s.sp = 0#32 := by rw [top, full]; rfl
  have ok : Statements.SlotOk s s.sp := by rw [Statements.SlotOk, sp, full]; decide
  obtain ⟨v, word, popped⟩ := State.pop_of_slotOk ok
  rw [sp] at word popped
  exact ⟨v, sp, word, popped⟩

/-- Settles O31, clause by clause from the rules of a push and of a pop. -/
theorem pushAndPopRules : Obligations.PushAndPopRules :=
  ⟨fun _ v => ⟨fun h => State.push_of_misaligned h v, fun h h' => State.push_of_outside h h' v,
      fun h => State.push_of_slotOk h v⟩,
    fun _ => ⟨State.pop_of_misaligned, State.pop_of_outside, State.pop_of_slotOk, State.pop_of_empty,
      State.pop_of_empty_full⟩⟩

end Sys2Proof.Machine

/-! PROOFS. The header checks of every step, and the flags of additions and subtractions (40_execution_cycle.md R132,
R139, R140). -/

namespace Sys2Proof

/-! ## The header checks -/

/-- The FLAGS field as a number: the low five bits of Byte 1 (30_encoding.md R82). -/
theorem flagsField_eq_zero (b : Byte) : flagsField b = 0#5 ↔ b.toNat % 32 = 0 := by
  simp [flagsField, ← BitVec.toNat_inj]

/-- The opcode map leaves out exactly the reserved opcodes, under every condition (30_encoding.md R110, R111). -/
theorem pattern_eq_none (c : Cond) (op : Byte) : pattern c op = none ↔ Statements.Reserved op.toNat := by
  have := op.isLt
  unfold pattern Statements.Reserved
  split
  -- The map's last row, for the opcodes that no other row names.
  case h_68 =>
    simp only [imp_false] at *
    simp only [true_iff]
    omega
  all_goals
    simp only [reduceCtorEq, false_iff]
    omega

/-- A nonzero FLAGS field fails the header checks, whatever the opcode is (40_execution_cycle.md R132). -/
theorem decodeHeader_flagsField {b1 : Byte} (h : b1.toNat % 32 ≠ 0) (b2 : Byte) :
    decodeHeader b1 b2 = .error .flagsFieldNotZero :=
  if_neg (mt (flagsField_eq_zero b1).mp h)

/-- A reserved opcode fails the header checks when the FLAGS field passes, whatever the condition is
(40_execution_cycle.md R132). -/
theorem decodeHeader_reserved {b1 b2 : Byte} (h : b1.toNat % 32 = 0) (h' : Statements.Reserved b2.toNat) :
    decodeHeader b1 b2 = .error .reservedOpcode := by
  have noPattern := (pattern_eq_none (condOf (condBits b1)) b2).mpr h'
  simp only [decodeHeader, (flagsField_eq_zero b1).mpr h, noPattern, if_true]

end Sys2Proof

namespace Sys2Proof.Machine

/-- The bytes that stand in memory from an address on are what is fetched there (20_memory.md R59). -/
theorem State.fetchByte_of_bytesAt {s : State} {a : Word} {bs : List Byte} (h : Statements.BytesAt s a bs) {k : Nat}
    (hk : k < bs.length) : s.fetchByte (a + BitVec.ofNat 32 k) = .ok bs[k] :=
  State.fetchByte_ok.mpr (h k hk)

/-- A header that fails its checks is an illegal instruction, recorded without operand bytes
(40_execution_cycle.md R132). -/
theorem step_of_decodeHeader_error {s : State} {b1 b2 : Byte} {e : DecodeError} (running : s.Running)
    (bytes : Statements.BytesAt s s.pc [b1, b2]) (h : decodeHeader b1 b2 = .error e) :
    step s = .fault (.illegalInstruction s.pc (b1 ++ b2) []) := by
  obtain ⟨machine, notHalted⟩ := running
  have byte1 : s.fetchByte s.pc = .ok b1 := by
    simpa using State.fetchByte_of_bytesAt bytes (k := 0) (by simp)
  have byte2 : s.fetchByte (s.pc + 1#32) = .ok b2 := State.fetchByte_of_bytesAt bytes (k := 1) (by simp)
  have fetched : s.fetch = .error (.illegalInstruction s.pc (b1 ++ b2) []) := by
    simp only [State.fetch, byte1, byte2, h]
  simp only [step_of_running machine notHalted, fetched]

/-- Settles O8: either check failing is all a step looks at; the condition bits of Byte 1 are in neither. -/
theorem headerChecksFault : Obligations.HeaderChecksFault :=
  fun _ _ b2 running bytes =>
    ⟨fun flags => step_of_decodeHeader_error running bytes (decodeHeader_flagsField flags b2),
      fun flags reserved => step_of_decodeHeader_error running bytes (decodeHeader_reserved flags reserved)⟩

/-! ## The flags of an addition and of a subtraction -/

/-- `SetZN(r)` as the statements say it (40_execution_cycle.md R139). -/
theorem zn_flagsOf (r : Word) (c v : Bool) : Statements.ZN r (flagsOf r c v) :=
  ⟨flagsOf_z_iff r c v, flagsOf_n_iff r c v⟩

/-- V of an addition by the sign bits is signed overflow (40_execution_cycle.md R140). -/
theorem addFlags_v (a b : Word) : (addFlags a b).flags.v = a.saddOverflow b :=
  (BitVec.saddOverflow_eq a b).symm

/-- V of a subtraction by the sign bits is signed overflow (40_execution_cycle.md R140). -/
theorem subFlags_v (a b : Word) : (subFlags a b).flags.v = a.ssubOverflow b := by
  rw [BitVec.ssubOverflow_eq, subFlags, flagsOf_v]
  cases a.msb <;> cases b.msb <;> simp

/-- Signed overflow of an addition: the exact sum is no signed word. -/
theorem saddOverflow_iff (a b : Word) :
    a.saddOverflow b = true ↔ ¬(-2 ^ 31 ≤ a.toInt + b.toInt ∧ a.toInt + b.toInt ≤ 2 ^ 31 - 1) := by
  simp only [BitVec.saddOverflow, Bool.or_eq_true, decide_eq_true_eq]
  omega

/-- Signed overflow of a subtraction: the exact difference is no signed word. -/
theorem ssubOverflow_iff (a b : Word) :
    a.ssubOverflow b = true ↔ ¬(-2 ^ 31 ≤ a.toInt - b.toInt ∧ a.toInt - b.toInt ≤ 2 ^ 31 - 1) := by
  simp only [BitVec.ssubOverflow, Bool.or_eq_true, decide_eq_true_eq]
  omega

/-- After a subtraction N and V differ exactly when the minuend is the smaller signed number
(40_execution_cycle.md R140): without overflow N is the sign of the exact difference; with overflow the operands'
signs differ and N is wrong, so the minuend's sign decides. -/
theorem subFlags_n_ne_v (a b : Word) :
    (subFlags a b).flags.n ≠ (subFlags a b).flags.v ↔ a.toInt < b.toInt := by
  have n : (subFlags a b).flags.n = true ↔ (a - b).toInt < 0 := flagsOf_n_iff _ _ _
  cases overflow : (subFlags a b).flags.v with
  | false =>
    have difference : (a - b).toInt = a.toInt - b.toInt :=
      BitVec.toInt_sub_of_not_ssubOverflow (by rw [← subFlags_v, overflow]; decide)
    rw [ne_eq, Bool.not_eq_false, n, difference]
    omega
  | true =>
    have signs : (a.msb != b.msb && (a - b).msb != a.msb) = true := overflow
    simp only [BitVec.msb_eq_toInt, Bool.and_eq_true, bne_iff_ne, ne_eq, decide_eq_decide] at signs
    rw [ne_eq, n]
    omega

/-- `AddFlags` sets the flags of an addition (40_execution_cycle.md R140). -/
theorem sumFlagsOf_addFlags (a b : Word) : Statements.SumFlagsOf a b (addFlags a b).flags := by
  refine ⟨zn_flagsOf _ _ _, decide_eq_true_iff, ?_, ?_⟩
  · simp [addFlags, BitVec.msb_eq_getLsbD_last]
  · rw [addFlags_v, saddOverflow_iff]

/-- `SubFlags` sets the flags of a subtraction (40_execution_cycle.md R140). -/
theorem differenceFlagsOf_subFlags (a b : Word) : Statements.DifferenceFlagsOf a b (subFlags a b).flags := by
  refine ⟨zn_flagsOf _ _ _, decide_eq_true_iff, ?_, ?_, ?_, subFlags_n_ne_v a b⟩
  · simp [subFlags, BitVec.msb_eq_getLsbD_last]
  · rw [subFlags_v, ssubOverflow_iff]
  · exact (flagsOf_z_iff _ _ _).trans sub_eq_zero

/-! ## The instructions that add or subtract -/

/-- An unsigned 8-bit immediate is the number of its bits (30_encoding.md R99). -/
theorem immZero8_eq (imm : BitVec 8) : immZero8 imm = BitVec.ofNat 32 imm.toNat :=
  BitVec.eq_of_toNat_eq (by rw [immZero8_toNat, BitVec.toNat_ofNat]; omega)

section
variable {i : Instr} {c : Cond} {l : Layout} {s : State}

/-- A four-byte instruction whose body writes a result and its flags does so when its condition holds
(40_execution_cycle.md R137). -/
theorem exec_writeResult {d : Reg} {x : Alu} (holds : Statements.Holds c s) (len : l.len = 4)
    (h : exec i s = execute c l s fun npc => .ok (s.writeResult d x npc)) :
    exec i s = .next (((s.setReg d x.value).setFlags x.flags).setPc (s.pc + 4#32)) := by
  rw [h, execute_of_holds holds, len, State.writeResult]

/-- A four-byte instruction whose body writes flags does so when its condition holds (40_execution_cycle.md R137). -/
theorem exec_writeFlags {f : Flags} (holds : Statements.Holds c s) (len : l.len = 4)
    (h : exec i s = execute c l s fun npc => .ok (s.writeFlags f npc)) :
    exec i s = .next ((s.setFlags f).setPc (s.pc + 4#32)) := by
  rw [h, execute_of_holds holds, len, State.writeFlags]

/-- What an instruction that writes a sum leaves (43_arithmetic.md R170, R171). -/
theorem writesResult_add {d : Reg} {a b : Word} (holds : Statements.Holds c s) (len : l.len = 4)
    (h : exec i s = execute c l s fun npc => .ok (s.writeResult d (addFlags a b) npc)) :
    Statements.WritesResult i s d (a + b) (Statements.SumFlagsOf a b) :=
  ⟨_, sumFlagsOf_addFlags a b, exec_writeResult holds len h⟩

/-- What an instruction that writes a difference leaves (43_arithmetic.md R170, R172). -/
theorem writesResult_sub {d : Reg} {a b : Word} (holds : Statements.Holds c s) (len : l.len = 4)
    (h : exec i s = execute c l s fun npc => .ok (s.writeResult d (subFlags a b) npc)) :
    Statements.WritesResult i s d (a - b) (Statements.DifferenceFlagsOf a b) :=
  ⟨_, differenceFlagsOf_subFlags a b, exec_writeResult holds len h⟩

/-- What an instruction that compares leaves (49_comparison.md R260). -/
theorem writesFlags_sub {a b : Word} (holds : Statements.Holds c s) (len : l.len = 4)
    (h : exec i s = execute c l s fun npc => .ok (s.writeFlags (subFlags a b).flags npc)) :
    Statements.WritesFlags i s (Statements.DifferenceFlagsOf a b) :=
  ⟨_, differenceFlagsOf_subFlags a b, exec_writeFlags holds len h⟩

end

/-- Settles O19: each of the nine is a sum, a difference or a comparison of its two operands. -/
theorem additionAndSubtractionFlags : Obligations.AdditionAndSubtractionFlags := by
  intro c d x y imm s holds
  rw [← immZero8_eq]
  exact ⟨writesResult_add holds rfl rfl, writesResult_add holds rfl rfl, writesResult_add holds rfl rfl,
    writesResult_sub holds rfl rfl, writesResult_sub holds rfl rfl, writesResult_sub holds rfl rfl,
    writesResult_sub holds rfl rfl, writesFlags_sub holds rfl rfl, writesFlags_sub holds rfl rfl⟩

end Sys2Proof.Machine

/-! PROOFS. A step from the bytes at `pc`, and the register jump (40_execution_cycle.md R130 to R134,
48_control_flow.md R246). -/

namespace Sys2Proof

/-! ## The fields of layout R -/

/-- The low nibble as a number (30_encoding.md R92). -/
theorem loNibble_eq_zero (b : Byte) : loNibble b = 0#4 ↔ b.toNat % 2 ^ 4 = 0 := by
  simp [loNibble, ← BitVec.toNat_inj]

/-- A first header byte is its condition's code above five zero bits (30_encoding.md R80 to R82). -/
theorem header_toNat (c : Cond) : (c.code ++ 0#5).toNat = c.code.toNat * 2 ^ 5 := by
  rw [BitVec.toNat_append, BitVec.toNat_ofNat, Nat.zero_mod, Nat.or_zero, Nat.shiftLeft_eq]

/-- A padded register byte is the register's number above four zero bits (30_encoding.md R92). -/
theorem regPad_toNat (r : Reg) : (regPad r).toNat = r.val * 2 ^ 4 := by
  rw [regPad, BitVec.toNat_append, BitVec.toNat_ofNat, Nat.zero_mod, Nat.or_zero, Nat.shiftLeft_eq]
  rfl

/-- A defined opcode passes the header checks when the FLAGS field does (40_execution_cycle.md R132). -/
theorem decodeHeader_defined {b1 b2 : Byte} {p : Pattern} (h : b1.toNat % 32 = 0)
    (defined : pattern (condOf (condBits b1)) b2 = some p) : decodeHeader b1 b2 = .ok p :=
  decodeHeader_ok.mpr ⟨_, (header_of_flagsField ((flagsField_eq_zero b1).mpr h)).symm, defined⟩

/-- A nonzero PAD bit in either operand byte of layout R is rejected (30_encoding.md R92, R98). -/
theorem Pattern.operands_r_pad {mk : Reg → Instr} {o1 o2 : Byte} (h : o1.toNat % 2 ^ 4 ≠ 0 ∨ o2.toNat ≠ 0) :
    (Pattern.r mk).operands [o1, o2] = .error .padNotZero := by
  have padSet : ¬(loNibble o1 = 0#4 ∧ o2 = 0#8) := by
    rw [loNibble_eq_zero, ← BitVec.toNat_inj]
    exact not_and_or.mpr h
  exact if_neg padSet

/-- The decoder reads JMPR back from its bytes (48_control_flow.md R246). -/
theorem decode_jmpr (c : Cond) (r : Reg) : decode (encode (.jmpr c r)) = .ok (.jmpr c r, []) :=
  decode_ok.mpr ⟨c, 0x71#8, .r (.jmpr c), bytesR r, rfl, Pattern.operands_r.mpr ⟨r, rfl, rfl⟩, rfl⟩

end Sys2Proof

namespace Sys2Proof.Machine

/-! ## A step from the bytes at `pc` -/

/-- Operand bytes that stand in memory behind a header are what is fetched there (40_execution_cycle.md R133). -/
theorem State.fetchBytes_of_bytesAt {s : State} {b1 b2 : Byte} {ops : List Byte}
    (bytes : Statements.BytesAt s s.pc (b1 :: b2 :: ops)) : s.fetchBytes ops.length (s.pc + 2#32) = .ok ops := by
  refine State.fetchBytes_ok.mpr ⟨rfl, fun k hk => ?_⟩
  have address : s.pc + BitVec.ofNat 32 (k + 2) = s.pc + 2#32 + BitVec.ofNat 32 k := by
    rw [BitVec.add_assoc, Nat.add_comm k 2, BitVec.ofNat_add]
  rw [← address]
  exact State.fetchByte_of_bytesAt bytes (k := k + 2) (by simpa using hk)

/-- Behind a header that passes its checks, what the pattern makes of the operand bytes in memory is what is fetched
(40_execution_cycle.md R131 to R134). -/
theorem State.fetch_of_bytesAt {s : State} {b1 b2 : Byte} {ops : List Byte} {p : Pattern}
    (bytes : Statements.BytesAt s s.pc (b1 :: b2 :: ops)) (header : decodeHeader b1 b2 = .ok p)
    (len : ops.length = p.layout.operandBytes) :
    s.fetch = (p.operands ops).mapError fun _ => .illegalInstruction s.pc (b1 ++ b2) ops := by
  have byte1 : s.fetchByte (s.pc + 0#32) = .ok b1 := State.fetchByte_of_bytesAt bytes (k := 0) (by simp)
  have byte2 : s.fetchByte (s.pc + 1#32) = .ok b2 := State.fetchByte_of_bytesAt bytes (k := 1) (by simp)
  have operands : s.fetchBytes p.layout.operandBytes (s.pc + 2#32) = .ok ops :=
    len ▸ State.fetchBytes_of_bytesAt bytes
  rw [BitVec.add_zero] at byte1
  simp only [State.fetch, byte1, byte2, header, operands]
  cases p.operands ops <;> rfl

/-- A running machine whose bytes at `pc` decode does what the instruction says (40_execution_cycle.md R130). -/
theorem step_of_decode {s : State} {bs : List Byte} {i : Instr} (running : s.Running)
    (bytes : Statements.BytesAt s s.pc bs) (h : decode bs = .ok (i, [])) : step s = exec i s := by
  obtain ⟨machine, notHalted⟩ := running
  obtain ⟨c, op, p, ops, defined, read, rfl⟩ := decode_ok.mp h
  rw [List.append_nil] at bytes
  have header : decodeHeader (c.code ++ 0#5) op = .ok p := decodeHeader_ok.mpr ⟨c, rfl, defined⟩
  have fetched : s.fetch = .ok i := by
    rw [State.fetch_of_bytesAt (ops := ops) bytes header (Pattern.operands_length read), read]
    rfl
  simp only [step_of_running machine notHalted, fetched]

/-- Operand bytes that the pattern rejects are an illegal instruction, recorded with them
(40_execution_cycle.md R134). -/
theorem step_of_operands_error {s : State} {b1 b2 : Byte} {ops : List Byte} {p : Pattern} {e : DecodeError}
    (running : s.Running) (bytes : Statements.BytesAt s s.pc (b1 :: b2 :: ops))
    (header : decodeHeader b1 b2 = .ok p) (len : ops.length = p.layout.operandBytes)
    (h : p.operands ops = .error e) : step s = .fault (.illegalInstruction s.pc (b1 ++ b2) ops) := by
  obtain ⟨machine, notHalted⟩ := running
  have fetched : s.fetch = .error (.illegalInstruction s.pc (b1 ++ b2) ops) := by
    rw [State.fetch_of_bytesAt bytes header len, h]
    rfl
  simp only [step_of_running machine notHalted, fetched]

/-- A running machine with `pc` outside memory faults at the fetch of Byte 1 (40_execution_cycle.md R131). -/
theorem step_of_pc_outside {s : State} (running : s.Running) (outside : s.memSize ≤ s.pc.toNat) :
    step s = .fault (.fetchFault s.pc) := by
  obtain ⟨machine, notHalted⟩ := running
  have fetched : s.fetch = .error (.fetchFault s.pc) := by
    simp only [State.fetch, State.fetchByte_outside outside]
  simp only [step_of_running machine notHalted, fetched]

/-! ## The register jump -/

/-- Where its condition holds, JMPR goes to the register's value and changes nothing else (48_control_flow.md R246). -/
theorem exec_jmpr_of_holds {c : Cond} {s : State} (holds : Statements.Holds c s) (r : Reg) :
    exec (.jmpr c r) s = .next (s.setPc (s.reg r)) := by
  have dispatch : exec (.jmpr c r) s = execJmpr c r s := rfl
  rw [dispatch, execJmpr, execute_of_holds holds]

/-- Settles O41: the bytes and the example through the decoder, a target outside memory and a PAD bit through the
checks of the fetch. -/
theorem jumpRegisterRule : Obligations.JumpRegisterRule := by
  refine ⟨fun c r => ?bytes, fun c r s holds => ⟨exec_jmpr_of_holds holds r, ?outside⟩, ?pad, ?jump⟩
  case bytes => exact ⟨c.code ++ 0#5, regPad r, header_toNat c, regPad_toNat r, rfl, decode_jmpr c r⟩
  case outside =>
    -- JMPR keeps the run state and the size of memory, so both facts about `s` hold after it.
    exact fun running outside => step_of_pc_outside (s := s.setPc (s.reg r)) running outside
  case pad =>
    exact fun s b1 o1 o2 running bytes flags pad =>
      ⟨_, step_of_operands_error running bytes (decodeHeader_defined flags rfl) rfl (Pattern.operands_r_pad pad)⟩
  case jump =>
    intro s running bytes target
    have always : Statements.Holds .always s := rfl
    rw [step_of_decode running bytes (decode_jmpr .always 1), exec_jmpr_of_holds always, target]

end Sys2Proof.Machine

/-! PROOFS. The decoder and the encoder are inverse, and what they accept is what the masks of the opcode map accept
(30_encoding.md R98, R101, R112). -/

namespace Sys2Proof

/-! ## Encoding, then decoding -/

/-- An encoding that splits into a header and operand bytes which the header's pattern reads back is decoded to its
instruction, whatever follows (30_encoding.md R101). -/
theorem decode_encode_of_parts {i : Instr} {c : Cond} {op : Byte} {ops : List Byte} {p : Pattern}
    (bytes : encode i = headerBytes c op ++ ops) (defined : pattern c op = some p) (read : p.operands ops = .ok i)
    (rest : List Byte) : decode (encode i ++ rest) = .ok (i, rest) :=
  decode_ok.mpr ⟨c, op, p, ops, defined, read, by rw [bytes]⟩

/-- Settles O1: each encoding is a header whose opcode names the instruction's pattern, and the operand bytes of its
layout, which that pattern reads back. -/
theorem decodeInvertsEncode : Obligations.DecodeInvertsEncode := by
  intro i rest
  cases i with
  | halt c | syscall c | iret c | leave c | ret c | reti c =>
    exact decode_encode_of_parts (List.append_nil _).symm rfl (Pattern.operands_n.mpr ⟨rfl, rfl⟩) rest
  | add c d a b | sub c d a b | mul c d a b | div c d a b | mod c d a b | divu c d a b | modu c d a b
  | and c d a b | or c d a b | xor c d a b
  | shl c d a b | shr c d a b | sar c d a b | rol c d a b | ror c d a b =>
    exact decode_encode_of_parts (ops := bytesRRR d a b) rfl rfl (Pattern.operands_rrr.mpr ⟨d, a, b, rfl, rfl⟩) rest
  | mov c a b | swap c a b | cmp c a b | tst c a b | cmpf c a b =>
    exact decode_encode_of_parts (ops := bytesRR a b) rfl rfl (Pattern.operands_rr.mpr ⟨a, b, rfl, rfl⟩) rest
  | cmpi c r v | tsti c r v =>
    exact decode_encode_of_parts (ops := bytesRI8 r v) rfl rfl (Pattern.operands_ri8.mpr ⟨r, v, rfl, rfl⟩) rest
  | movi c r v | movhi c r v =>
    exact decode_encode_of_parts (ops := bytesRI16 r v) rfl rfl (Pattern.operands_ri16.mpr ⟨r, v, rfl, rfl⟩) rest
  | lea c r b v | load c r b v | store c r b v | loadb c r b v | storeb c r b v | loadh c r b v | storeh c r b v
  | loadsb c r b v | loadsh c r b v =>
    exact decode_encode_of_parts (ops := bytesM r b v) rfl rfl (Pattern.operands_m.mpr ⟨r, b, v, rfl, rfl⟩) rest
  | jmp c v | call c v =>
    exact decode_encode_of_parts (ops := bytesJ v) rfl rfl (Pattern.operands_j.mpr ⟨v, rfl, rfl⟩) rest
  | inc c r | dec c r | neg c r | abs c r | not c r | push c r | pop c r | alloca c r | jmpr c r | calli c r =>
    exact decode_encode_of_parts (ops := bytesR r) rfl rfl (Pattern.operands_r.mpr ⟨r, rfl, rfl⟩) rest
  | trap c v | int c v | bra c v | bsr c v =>
    exact decode_encode_of_parts (ops := bytesI8 v) rfl rfl (Pattern.operands_i8.mpr ⟨v, rfl, rfl⟩) rest
  | addi c d a v | subi c d a v | andi c d a v | ori c d a v | xori c d a v =>
    exact decode_encode_of_parts (ops := bytesRRI8 d a v) rfl rfl
      (Pattern.operands_rri8.mpr ⟨d, a, v, rfl, rfl⟩) rest
  | shli c d a v | shri c d a v | sari c d a v =>
    exact decode_encode_of_parts (ops := bytesRRI5 d a v) rfl rfl
      (Pattern.operands_rri5.mpr ⟨d, a, v, rfl, rfl⟩) rest
  | pushm c v | popm c v | enter c v =>
    exact decode_encode_of_parts (ops := bytesI16 v) rfl rfl (Pattern.operands_i16.mpr ⟨v, rfl, rfl⟩) rest
  | limm c r v =>
    exact decode_encode_of_parts (ops := bytesRI32 r v) rfl rfl (Pattern.operands_ri32.mpr ⟨r, v, rfl, rfl⟩) rest

/-- Settles O4: the eleven strings are the encodings of the eleven instructions. -/
theorem writtenEncodingsDecode : Obligations.WrittenEncodingsDecode := by
  have read (i : Instr) : decode (encode i) = .ok (i, []) := by simpa using decodeInvertsEncode i []
  exact ⟨read (.trap .always 3#8), read (.mov .eq 1 2), read (.limm .always 2 0x12345678#32), read (.add .lt 3 1 2),
    read (.andi .always 1 2 0x0F#8), read (.shli .always 1 2 4#5), read (.load .always 1 5 0x0C#8),
    read (.pushm .always 0x8006#16), read (.jmp .ne 0x00000C#24), read (.cmpi .always 1 5#8), read (.halt .never)⟩

/-! ## Decoding, then encoding -/

/-- Whatever operands a pattern's instruction is given, its encoding is this header and those operands' bytes
(30_encoding.md R85 to R97). -/
def Pattern.EncodesUnder (header : List Byte) : Pattern → Prop
  | .n mk => encode mk = header
  | .rrr mk => ∀ d a b, encode (mk d a b) = header ++ bytesRRR d a b
  | .rr mk => ∀ a b, encode (mk a b) = header ++ bytesRR a b
  | .ri8 mk => ∀ r v, encode (mk r v) = header ++ bytesRI8 r v
  | .ri16 mk => ∀ r v, encode (mk r v) = header ++ bytesRI16 r v
  | .m mk => ∀ r b v, encode (mk r b v) = header ++ bytesM r b v
  | .j mk => ∀ v, encode (mk v) = header ++ bytesJ v
  | .r mk => ∀ r, encode (mk r) = header ++ bytesR r
  | .i8 mk => ∀ v, encode (mk v) = header ++ bytesI8 v
  | .rri8 mk => ∀ d a v, encode (mk d a v) = header ++ bytesRRI8 d a v
  | .rri5 mk => ∀ d a v, encode (mk d a v) = header ++ bytesRRI5 d a v
  | .i16 mk => ∀ v, encode (mk v) = header ++ bytesI16 v
  | .ri32 mk => ∀ r v, encode (mk r v) = header ++ bytesRI32 r v

theorem byte_eq_ofNat {b : Byte} {n : Nat} (h : b.toNat = n) : b = BitVec.ofNat 8 n := by
  rw [← h, BitVec.ofNat_toNat, BitVec.setWidth_eq]

/-- The opcode map of the decoder names the instructions that the encoder gives these opcodes, with the layouts of the
masks' opcode map (30_encoding.md R110). -/
theorem pattern_row {c : Cond} {op : Byte} {p : Pattern} (h : pattern c op = some p) :
    p.EncodesUnder (headerBytes c op) ∧ layoutOf op = some p.layout := by
  unfold pattern at h
  split at h
  -- The map's last row names no instruction.
  case h_68 => simp at h
  all_goals
    rename_i number
    obtain rfl := byte_eq_ofNat number
    obtain rfl := Option.some.inj h
    refine ⟨?_, rfl⟩
    simp only [Pattern.EncodesUnder]
    intros
    rfl

/-- Operand bytes that a pattern reads are, behind its header, the encoding of what it reads (30_encoding.md R98). -/
theorem Pattern.EncodesUnder.encode_eq {p : Pattern} {header ops : List Byte} {i : Instr}
    (encodes : p.EncodesUnder header) (read : p.operands ops = .ok i) : encode i = header ++ ops := by
  cases p with
  | n mk => obtain ⟨rfl, rfl⟩ := Pattern.operands_n.mp read; rw [List.append_nil]; exact encodes
  | rrr mk => obtain ⟨d, a, b, rfl, rfl⟩ := Pattern.operands_rrr.mp read; exact encodes d a b
  | rr mk => obtain ⟨a, b, rfl, rfl⟩ := Pattern.operands_rr.mp read; exact encodes a b
  | ri8 mk => obtain ⟨r, v, rfl, rfl⟩ := Pattern.operands_ri8.mp read; exact encodes r v
  | ri16 mk => obtain ⟨r, v, rfl, rfl⟩ := Pattern.operands_ri16.mp read; exact encodes r v
  | m mk => obtain ⟨r, b, v, rfl, rfl⟩ := Pattern.operands_m.mp read; exact encodes r b v
  | j mk => obtain ⟨v, rfl, rfl⟩ := Pattern.operands_j.mp read; exact encodes v
  | r mk => obtain ⟨r, rfl, rfl⟩ := Pattern.operands_r.mp read; exact encodes r
  | i8 mk => obtain ⟨v, rfl, rfl⟩ := Pattern.operands_i8.mp read; exact encodes v
  | rri8 mk => obtain ⟨d, a, v, rfl, rfl⟩ := Pattern.operands_rri8.mp read; exact encodes d a v
  | rri5 mk => obtain ⟨d, a, v, rfl, rfl⟩ := Pattern.operands_rri5.mp read; exact encodes d a v
  | i16 mk => obtain ⟨v, rfl, rfl⟩ := Pattern.operands_i16.mp read; exact encodes v
  | ri32 mk => obtain ⟨r, v, rfl, rfl⟩ := Pattern.operands_ri32.mp read; exact encodes r v

/-- Settles O2: the header and the operand bytes that the decoder accepted are those that the encoder writes. -/
theorem encodeInvertsDecode : Obligations.EncodeInvertsDecode := by
  intro bs i rest h
  obtain ⟨c, op, p, ops, defined, read, rfl⟩ := decode_ok.mp h
  obtain ⟨encodes, -⟩ := pattern_row defined
  rw [encodes.encode_eq read]

/-! ## The decoder against the masks -/

/-- The masks' opcode map leaves out the reserved opcodes (30_encoding.md R111). -/
theorem layoutOf_reserved {op : Byte} (h : Statements.Reserved op.toNat) : layoutOf op = none := by
  have defined : ∀ row ∈ opcodeMap, ¬Statements.Reserved row.1.toNat := by
    unfold Statements.Reserved
    decide
  rw [layoutOf, Option.map_eq_none_iff, List.find?_eq_none]
  intro row listed same
  rw [← beq_iff_eq.mp same] at h
  exact defined row listed h

/-- The masks' opcode map gives a defined opcode the layout of its pattern, whatever the condition
(30_encoding.md R110). -/
theorem layoutOf_eq (c : Cond) (op : Byte) : layoutOf op = (pattern c op).map Pattern.layout := by
  cases named : pattern c op with
  | none => exact layoutOf_reserved ((pattern_eq_none c op).mp named)
  | some p =>
    obtain ⟨-, layout⟩ := pattern_row named
    exact layout

/-- The fixed bits of the operand bytes of a layout (30_encoding.md R101). -/
def Layout.operandMask (l : Layout) : List Byte := l.mask.drop 2

theorem Layout.mask_eq (l : Layout) : l.mask = 0x1F#8 :: 0xFF#8 :: l.operandMask := by cases l <;> rfl

theorem and_ff_eq_zero (b : Byte) : b &&& 0xFF#8 = 0#8 ↔ b = 0#8 := by revert b; decide

theorem and_0f_eq_zero (b : Byte) : b &&& 0x0F#8 = 0#8 ↔ loNibble b = 0#4 := by revert b; decide

theorem and_e0_eq_zero (b : Byte) : b &&& 0xE0#8 = 0#8 ↔ b.extractLsb' 5 3 = 0#3 := by revert b; decide

theorem and_1f_eq_zero (b : Byte) : b &&& 0x1F#8 = 0#8 ↔ b.toNat % 32 = 0 := by revert b; decide

/-- No PAD bit of these operand bytes is set (30_encoding.md R98, R101). -/
def Layout.PadClear (l : Layout) (ops : List Byte) : Prop :=
  List.zipWith (· &&& ·) ops l.operandMask = List.replicate l.operandBytes 0#8

/-- A checked answer is one exactly when its check passes. -/
theorem exists_ok_of_check {α ε : Type} {P : Prop} [Decidable P] {x : α} {e : ε} :
    (∃ y, (if P then Except.ok x else Except.error e) = Except.ok y) ↔ P := by
  split <;> simp [*]

/-- A pattern reads operand bytes of the right number exactly when no PAD bit of them is set (30_encoding.md R98). -/
theorem Pattern.operands_ok_iff (p : Pattern) {ops : List Byte} (len : ops.length = p.layout.operandBytes) :
    (∃ i, p.operands ops = .ok i) ↔ p.layout.PadClear ops := by
  have clear : p.layout.PadClear ops ↔
      List.zipWith (· &&& ·) ops p.layout.operandMask = List.replicate p.layout.operandBytes 0#8 := Iff.rfl
  rw [clear]
  cases p <;> simp only [Pattern.layout, Layout.operandBytes, Layout.operandMask, Layout.mask] at len ⊢
  case n mk => match ops, len with | [], _ => simp [Pattern.operands]
  case rrr mk => match ops, len with | [o1, o2], _ => simp [Pattern.operands, exists_ok_of_check, and_0f_eq_zero]
  case rr mk => match ops, len with | [o1, o2], _ => simp [Pattern.operands, exists_ok_of_check, and_ff_eq_zero]
  case ri8 mk => match ops, len with | [o1, o2], _ => simp [Pattern.operands, exists_ok_of_check, and_0f_eq_zero]
  case ri16 mk => match ops, len with
    | [o1, o2, o3, o4], _ =>
      simp [Pattern.operands, exists_ok_of_check, and_0f_eq_zero, and_ff_eq_zero]
  case m mk => match ops, len with | [o1, o2], _ => simp [Pattern.operands]
  case j mk => match ops, len with | [o1, o2, o3], _ => simp [Pattern.operands]
  case r mk => match ops, len with
    | [o1, o2], _ =>
      simp [Pattern.operands, exists_ok_of_check, and_0f_eq_zero, and_ff_eq_zero]
  case i8 mk => match ops, len with | [o1, o2], _ => simp [Pattern.operands, exists_ok_of_check, and_ff_eq_zero]
  case rri8 mk => match ops, len with | [o1, o2], _ => simp [Pattern.operands]
  case rri5 mk => match ops, len with | [o1, o2], _ => simp [Pattern.operands, exists_ok_of_check, and_e0_eq_zero]
  case i16 mk => match ops, len with
    | [o1, o2, o3, o4], _ =>
      simp [Pattern.operands, exists_ok_of_check, and_ff_eq_zero]
  case ri32 mk => match ops, len with
    | [o1, o2, o3, o4, o5, o6], _ =>
      simp [Pattern.operands, exists_ok_of_check, and_0f_eq_zero, and_ff_eq_zero]

/-- A legal string has the two header bytes: a missing opcode reads as the reserved 0xFF (30_encoding.md R111). -/
theorem header_of_wellFormedBytes {bs : List Byte} (h : wellFormedBytes bs = true) :
    ∃ b1 b2 ops, bs = b1 :: b2 :: ops := by
  have reserved : layoutOf 0xFF#8 = none := by decide
  match bs with
  | [] => simp [wellFormedBytes, opcodeDefined, reserved] at h
  | [_] => simp [wellFormedBytes, opcodeDefined, reserved] at h
  | b1 :: b2 :: ops => exact ⟨b1, b2, ops, rfl⟩

/-- A string of two header bytes and more is legal exactly when its header passes the checks of the decoder, its
length is its layout's and no PAD bit is set (30_encoding.md R101, R112). -/
theorem wellFormedBytes_iff (b1 b2 : Byte) (ops : List Byte) :
    wellFormedBytes (b1 :: b2 :: ops) = true ↔
      b1.toNat % 32 = 0 ∧ ∃ l, layoutOf b2 = some l ∧ ops.length = l.operandBytes ∧ l.PadClear ops := by
  have flags : flagsFieldZero (b1 :: b2 :: ops) = true ↔ b1.toNat % 32 = 0 := by
    rw [← and_1f_eq_zero]
    exact beq_iff_eq
  have fixed (l : Layout) (h : b1.toNat % 32 = 0) :
      fixedBitsRight l b2 (b1 :: b2 :: ops) = true ↔ l.PadClear ops := by
    have opcode : b2 &&& 0xFF#8 = b2 := BitVec.and_allOnes
    rw [fixedBitsRight, l.mask_eq, List.zipWith_cons_cons, List.zipWith_cons_cons, (and_1f_eq_zero b1).mpr h, opcode]
    simp [Layout.fixed, Layout.PadClear]
  have length (l : Layout) : lengthRight l (b1 :: b2 :: ops) = true ↔ ops.length = l.operandBytes := by
    simp only [lengthRight, Layout.len, List.length_cons, beq_iff_eq]
    omega
  have tail : (b1 :: b2 :: ops).tail.headD 0xFF#8 = b2 := rfl
  rw [wellFormedBytes, opcodeDefined, tail, Bool.and_eq_true, Bool.and_eq_true, flags]
  cases layoutOf b2 with
  | none => simp
  | some l =>
    simp only [Option.isSome_some, and_true, Bool.and_eq_true, Option.some.injEq, exists_eq_left', length]
    constructor
    · rintro ⟨f, len, fix⟩
      exact ⟨f, len, (fixed l f).mp fix⟩
    · rintro ⟨f, len, pad⟩
      exact ⟨f, len, (fixed l f).mpr pad⟩

/-- Settles O3: both sides ask for a header that passes its checks, the layout's number of operand bytes, and clear PAD
bits. -/
theorem decodeAcceptsExactlyLegalEncodings : Obligations.DecodeAcceptsExactlyLegalEncodings := by
  intro bs
  constructor
  · rintro ⟨i, h⟩
    obtain ⟨c, op, p, ops, defined, read, rfl⟩ := decode_ok.mp h
    have len := Pattern.operands_length read
    rw [List.append_nil]
    refine (wellFormedBytes_iff _ op ops).mpr ⟨?_, p.layout, ?_, len, (p.operands_ok_iff len).mp ⟨i, read⟩⟩
    · rw [← flagsField_eq_zero, flagsField_header]
    · rw [layoutOf_eq c, defined]
      rfl
  · intro h
    obtain ⟨b1, b2, ops, rfl⟩ := header_of_wellFormedBytes h
    obtain ⟨flags, l, lay, len, pad⟩ := (wellFormedBytes_iff b1 b2 ops).mp h
    rw [layoutOf_eq (condOf (condBits b1)), Option.map_eq_some_iff] at lay
    obtain ⟨p, defined, rfl⟩ := lay
    obtain ⟨i, read⟩ := (p.operands_ok_iff len).mpr pad
    refine ⟨i, decode_ok.mpr ⟨_, b2, p, ops, defined, read, ?_⟩⟩
    rw [headerBytes, header_of_flagsField ((flagsField_eq_zero b1).mpr flags), List.append_nil]
    rfl

end Sys2Proof

/-! PROOFS. The step: the faults of the fetch in their order, the condition test, and the instructions whose condition
is false (40_execution_cycle.md R130 to R142). -/

namespace Sys2Proof.Machine

/-! ## The faults of the fetch -/

/-- Settles O5: a fetch of bytes that decode answers the instruction they decode to. -/
theorem stepRunsDecodedInstruction : Obligations.StepRunsDecodedInstruction :=
  fun _ _ _ running decodes bytes => step_of_decode running bytes decodes

/-- A running machine whose fetch faults faults so (40_execution_cycle.md R130). -/
theorem step_of_fetch_error {s : State} {f : Fault} (running : s.Running) (h : s.fetch = .error f) :
    step s = .fault f := by
  obtain ⟨machine, notHalted⟩ := running
  simp only [step_of_running machine notHalted, h]

/-- Settles O7: Byte 1 is the first byte fetched, Byte 2 the second. -/
theorem headerFetchFaults : Obligations.HeaderFetchFaults := by
  intro s running
  refine ⟨step_of_pc_outside running, fun inside outside => step_of_fetch_error running ?_⟩
  simp only [State.fetch, State.fetchByte_inside inside, State.fetchByte_outside outside]

/-- A defined opcode behind a zero FLAGS field passes the header checks with a pattern of its layout
(40_execution_cycle.md R132). -/
theorem decodeHeader_of_layoutOf {b1 b2 : Byte} {l : Layout} (flags : b1.toNat % 32 = 0)
    (defined : layoutOf b2 = some l) : ∃ p, decodeHeader b1 b2 = .ok p ∧ p.layout = l := by
  rw [layoutOf_eq (condOf (condBits b1)), Option.map_eq_some_iff] at defined
  obtain ⟨p, named, layout⟩ := defined
  exact ⟨p, decodeHeader_defined flags named, layout⟩

/-- Settles O9: behind a header that passes its checks the operand bytes are fetched in order, and the condition is not
looked at. -/
theorem operandFetchFaults : Obligations.OperandFetchFaults := by
  intro s b1 b2 l k running bytes flags defined hk before outside
  obtain ⟨p, header, rfl⟩ := decodeHeader_of_layoutOf flags defined
  have address (j : Nat) : s.pc + BitVec.ofNat 32 (2 + j) = s.pc + 2#32 + BitVec.ofNat 32 j := by
    rw [BitVec.add_assoc, BitVec.ofNat_add]
  simp only [address] at before outside ⊢
  have byte1 : s.fetchByte (s.pc + 0#32) = .ok b1 := State.fetchByte_of_bytesAt bytes (k := 0) (by simp)
  have byte2 : s.fetchByte (s.pc + 1#32) = .ok b2 := State.fetchByte_of_bytesAt bytes (k := 1) (by simp)
  rw [BitVec.add_zero] at byte1
  refine step_of_fetch_error running ?_
  simp only [State.fetch, byte1, byte2, header, State.fetchBytes_outside hk before outside]

/-- Settles O10: where header and operand bytes are complete, the string is no legal encoding only because a PAD bit is
set, and then the pattern rejects the operand bytes. -/
theorem padBitFaults : Obligations.PadBitFaults := by
  intro s b1 b2 ops l running bytes flags defined len illegal
  obtain ⟨p, header, rfl⟩ := decodeHeader_of_layoutOf flags defined
  cases read : p.operands ops with
  | error e => exact step_of_operands_error running bytes header len read
  | ok i =>
    have legal : wellFormedBytes (b1 :: b2 :: ops) = true :=
      (wellFormedBytes_iff b1 b2 ops).mpr
        ⟨flags, p.layout, defined, len, (p.operands_ok_iff len).mp ⟨i, read⟩⟩
    rw [illegal] at legal
    contradiction

/-- Settles O11: neither branch of a step for a finished run changes the state. -/
theorem finishedRunChangesNothing : Obligations.FinishedRunChangesNothing := by
  rintro s (⟨machine, halted⟩ | ⟨code, ended⟩)
  · simp only [step, machine, halted, if_true]
  · simp only [step, ended]

/-! ## The frame of every instruction -/

/-- Every instruction runs a body of its own under its own condition, at its own length
(40_execution_cycle.md R135 to R137). -/
theorem exec_eq_execute (i : Instr) (s : State) : ∃ body, exec i s = execute i.cond i.layout s body := by
  cases i <;> (apply Exists.intro; dsimp only [exec, Instr.cond, Instr.layout]; rfl)

/-- The bytes of an instruction are as many as its layout fixes (30_encoding.md R84). -/
theorem encode_length (i : Instr) : (encode i).length = i.layout.len := by
  cases i <;> rfl

/-- An instruction whose condition is false changes `pc` alone (40_execution_cycle.md R136). -/
theorem exec_of_not_holds {i : Instr} {s : State} (h : condHolds i.cond s.flags = false) :
    exec i s = .next (s.setPc (s.pc + BitVec.ofNat 32 i.layout.len)) := by
  obtain ⟨body, run⟩ := exec_eq_execute i s
  rw [run, execute_of_not_holds h]

/-- Settles O12: whatever the body, it is not run. -/
theorem skippedInstructionOnlyAdvancesPc : Obligations.SkippedInstructionOnlyAdvancesPc := by
  intro i s h
  rw [encode_length, exec_of_not_holds h]

/-- The first byte of an encoding is its condition's code above the zero FLAGS field (30_encoding.md R80 to R82). -/
theorem encode_head? (i : Instr) : (encode i).head? = some (i.cond.code ++ 0#5) := by
  cases i <;> rfl

theorem condHolds_never (f : Flags) : condHolds .never f = false := by
  simp [condHolds, Cond.code]

/-- Settles O14: the first byte 0x80 is the one of `never`, which holds under no flags. -/
theorem neverIsNoOperation : Obligations.NeverIsNoOperation := by
  refine ⟨fun s bs i running decodes first bytes => ?_, rfl⟩
  obtain rfl : bs = encode i := by simpa using encodeInvertsDecode bs i [] decodes
  have never : i.cond = .never := by
    rw [encode_head?, Option.some.injEq] at first
    rw [← condOf_code i.cond, ← condBits_header, first]
    rfl
  rw [step_of_decode running bytes decodes, encode_length,
    exec_of_not_holds (by rw [never]; exact condHolds_never s.flags)]

/-! ## The condition test -/

/-- The formula of the condition test, bit by bit (40_execution_cycle.md R135). -/
theorem condHolds_iff (c : Cond) (f : Flags) :
    condHolds c f = true ↔
      (((c.code.getLsbD 0 = false ∨ f.z = false) ∧ (c.code.getLsbD 1 = false ∨ f.n = f.v)) ↔
        c.code.getLsbD 2 = false) := by
  obtain ⟨z, n, -, v⟩ := f
  simp only [condHolds]
  generalize c.code.getLsbD 0 = zTest, c.code.getLsbD 1 = signed, c.code.getLsbD 2 = invert
  revert zTest signed invert z n v
  decide

/-- The eight rows of the condition table (40_execution_cycle.md R135). -/
theorem condHolds_rows (f : Flags) :
    condHolds .always f = true ∧ (condHolds .ne f = true ↔ f.z = false) ∧ (condHolds .ge f = true ↔ f.n = f.v) ∧
      (condHolds .gt f = true ↔ f.z = false ∧ f.n = f.v) ∧ condHolds .never f = false ∧
      (condHolds .eq f = true ↔ f.z = true) ∧ (condHolds .lt f = true ↔ f.n ≠ f.v) ∧
      (condHolds .le f = true ↔ f.z = true ∨ f.n ≠ f.v) := by
  refine ⟨rfl, ?_, ?_, ?_, condHolds_never f, ?_, ?_, ?_⟩ <;> rw [condHolds_iff]
  all_goals simp [Cond.code, imp_iff_not_or]

section
variable {i : Instr} {c : Cond} {l : Layout} {s t : State} {body : Word → Except Fault State}

/-- An instruction whose condition holds and whose body answers gives what the body answers
(40_execution_cycle.md R137). -/
theorem exec_of_body_ok (holds : Statements.Holds c s) (h : exec i s = execute c l s body)
    (ok : body (s.pc + BitVec.ofNat 32 l.len) = .ok t) : exec i s = .next t := by
  rw [h, execute_of_holds holds, ok]

/-- An instruction whose condition holds and whose body faults faults so (40_execution_cycle.md R137). -/
theorem exec_of_body_error {f : Fault} (holds : Statements.Holds c s) (h : exec i s = execute c l s body)
    (error : body (s.pc + BitVec.ofNat 32 l.len) = .error f) : exec i s = .fault f := by
  rw [h, execute_of_holds holds, error]

/-- An instruction whose body always answers gives that answer when its condition holds
(40_execution_cycle.md R137). -/
theorem exec_of_pure {answer : Word → State} (holds : Statements.Holds c s)
    (h : exec i s = execute c l s fun npc => .ok (answer npc))
    (is : answer (s.pc + BitVec.ofNat 32 l.len) = t := by rfl) : exec i s = .next t :=
  exec_of_body_ok holds h (congrArg Except.ok is)

/-- A completed instruction whose condition holds has run its body (40_execution_cycle.md R137). -/
theorem body_of_exec (holds : Statements.Holds c s) (h : exec i s = execute c l s body) (next : exec i s = .next t) :
    body (s.pc + BitVec.ofNat 32 l.len) = .ok t := by
  rw [h] at next
  obtain ⟨-, ok⟩ | ⟨fails, -⟩ := execute_next next
  · exact ok
  · rw [holds] at fails
    contradiction

/-- A completed instruction whose condition holds and whose body always answers has given that answer
(40_execution_cycle.md R137). -/
theorem answer_of_exec {answer : Word → State} (holds : Statements.Holds c s)
    (h : exec i s = execute c l s fun npc => .ok (answer npc)) (next : exec i s = .next t) :
    t = answer (s.pc + BitVec.ofNat 32 l.len) :=
  (Except.ok.inj (body_of_exec holds h next)).symm

end

/-- What the six tests on the result mean after CMP: Z says that the registers are equal, and N and V differ exactly
when the first is the smaller signed number (49_comparison.md R260). -/
theorem condHolds_subFlags (a b : Word) :
    (condHolds .eq (subFlags a b).flags = true ↔ a = b) ∧ (condHolds .ne (subFlags a b).flags = true ↔ a ≠ b) ∧
      (condHolds .lt (subFlags a b).flags = true ↔ a.toInt < b.toInt) ∧
      (condHolds .ge (subFlags a b).flags = true ↔ b.toInt ≤ a.toInt) ∧
      (condHolds .gt (subFlags a b).flags = true ↔ b.toInt < a.toInt) ∧
      (condHolds .le (subFlags a b).flags = true ↔ a.toInt ≤ b.toInt) := by
  obtain ⟨-, -, -, -, zero, less⟩ := differenceFlagsOf_subFlags a b
  obtain ⟨-, ne, ge, gt, -, eq, lt, le⟩ := condHolds_rows (subFlags a b).flags
  have nonzero : (subFlags a b).flags.z = false ↔ a ≠ b := by rw [ne_eq, ← zero, Bool.not_eq_true]
  have notLess : (subFlags a b).flags.n = (subFlags a b).flags.v ↔ b.toInt ≤ a.toInt := by
    rw [← not_lt, ← less, ne_eq, not_not]
  have values : a = b ↔ a.toInt = b.toInt := BitVec.toInt_inj.symm
  rw [eq, ne, lt, ge, gt, le, zero, nonzero, less, notLess, ne_eq, values]
  refine ⟨Iff.rfl, Iff.rfl, Iff.rfl, Iff.rfl, ?_, ?_⟩ <;> omega

/-- Settles O13: the formula gives the eight rows, C stands in none of them, and a completed CMP leaves the flags of the
difference. -/
theorem conditionTest : Obligations.ConditionTest := by
  refine ⟨condHolds_iff, condHolds_rows, fun _ _ _ _ _ _ => rfl, fun c r q s t holds next => ?_⟩
  obtain rfl := answer_of_exec holds rfl next
  exact condHolds_subFlags (s.reg r) (s.reg q)

end Sys2Proof.Machine

/-! PROOFS. The instructions that write registers and flags alone: system, data movement, arithmetic, logical, shift and
comparison (41_system.md to 45_shift.md, 49_comparison.md). -/

namespace Sys2Proof.Machine

/-! ## System -/

/-- Settles O15: the body of HALT is that one state. -/
theorem haltSetsHalted : Obligations.HaltSetsHalted :=
  fun _ _ holds => exec_of_pure holds rfl

/-- Settles O16: each of the five delivers its event from the state it was executed in. -/
theorem eventInstructionsDeliver : Obligations.EventInstructionsDeliver :=
  fun _ imm _ holds => ⟨exec_of_pure holds rfl,
    ⟨immZero8 imm, immZero8_toNat imm, exec_of_pure holds rfl, exec_of_pure holds rfl⟩,
    exec_of_pure holds rfl, exec_of_pure holds rfl⟩

/-! ## Data movement -/

/-- Of two writes to one register the later one stands. -/
@[simp] theorem State.setReg_setReg_same (s : State) (r : Reg) (v w : Word) :
    (s.setReg r v).setReg r w = s.setReg r w := by
  simp [State.setReg]

/-- What two registers hold after each was given the other's value, one register twice included
(42_data_movement.md R164). -/
theorem State.reg_swap (s : State) (d e : Reg) :
    ((s.setReg d (s.reg e)).setReg e (s.reg d)).reg d = s.reg e ∧
      ((s.setReg d (s.reg e)).setReg e (s.reg d)).reg e = s.reg d := by
  refine ⟨?_, State.reg_setReg_same _ _ _⟩
  by_cases same : d = e
  · rw [same, State.reg_setReg_same]
  · rw [State.reg_setReg_other _ _ same, State.reg_setReg_same]

/-- Settles O17: each of the six writes what its operand form is worth. -/
theorem dataMovementResults : Obligations.DataMovementResults := by
  intro c d e imm off w s holds
  refine ⟨exec_of_pure holds rfl, ⟨immSign16 imm, immSign16_toInt imm, exec_of_pure holds rfl⟩,
    exec_of_pure holds rfl, ⟨highHalf imm (s.reg d), highHalf_toNat imm _, exec_of_pure holds rfl⟩,
    ⟨_, exec_of_pure holds rfl, rfl, ?swap⟩,
    ⟨effectiveAddress s e off, effectiveAddress_toNat s e off, exec_of_pure holds rfl⟩⟩
  obtain ⟨first, second⟩ := s.reg_swap d e
  exact ⟨first, second, fun r hd he => (State.reg_setReg_other _ _ he).trans (State.reg_setReg_other _ _ hd)⟩

/-- The high half above a register that holds the sign-extended low half is the whole word (42_data_movement.md
R163). -/
theorem highHalf_immSign16 (w : Word) : highHalf (w.extractLsb' 16 16) (immSign16 (w.extractLsb' 0 16)) = w := by
  apply BitVec.eq_of_toNat_eq
  have low : (immSign16 (w.extractLsb' 0 16)).toNat % 2 ^ 16 = w.toNat % 2 ^ 16 := by
    have signed := immSign16_toInt (w.extractLsb' 0 16)
    rw [BitVec.toInt_eq_toNat_bmod, BitVec.toInt_eq_toNat_bmod, BitVec.extractLsb'_toNat, Nat.shiftRight_zero] at signed
    simp only [Int.bmod] at signed
    omega
  rw [highHalf_toNat, low, BitVec.extractLsb'_toNat, Nat.shiftRight_eq_div_pow]
  have := w.isLt
  omega

/-- Settles O18: MOVHI keeps the low half that MOVI has put in the register, and neither touches the flags. -/
theorem moviThenMovhiBuildsConstant : Obligations.MoviThenMovhiBuildsConstant := by
  intro c c' d w s holds holds'
  refine ⟨s.writeReg d (immSign16 (w.extractLsb' 0 16)) (s.pc + 6#32), exec_of_pure holds rfl,
    exec_of_pure (c := c') holds' rfl ?_⟩
  have pc : s.pc + 6#32 + 6#32 = s.pc + 12#32 := BitVec.add_assoc _ _ _
  change ((s.setReg d (immSign16 (w.extractLsb' 0 16))).setReg d
    (highHalf (w.extractLsb' 16 16) ((s.setReg d (immSign16 (w.extractLsb' 0 16))).reg d))).setPc
      (s.pc + 6#32 + 6#32) = _
  rw [State.reg_setReg_same, highHalf_immSign16, State.setReg_setReg_same, pc]

/-! ## Arithmetic -/

/-- `LogicFlags(r)` as the statements say it (40_execution_cycle.md R141). -/
theorem logicFlagsOf_logicFlags (r : Word) : Statements.LogicFlagsOf r (logicFlags r).flags :=
  ⟨zn_flagsOf r false false, rfl, rfl⟩

section
variable {i : Instr} {c : Cond} {l : Layout} {s : State}

/-- What an instruction that writes a result with C and V clear leaves (40_execution_cycle.md R141). -/
theorem writesResult_logic {d : Reg} {r : Word} (holds : Statements.Holds c s) (len : l.len = 4)
    (h : exec i s = execute c l s fun npc => .ok (s.writeResult d (logicFlags r) npc)) :
    Statements.WritesResult i s d r (Statements.LogicFlagsOf r) :=
  ⟨_, logicFlagsOf_logicFlags r, exec_writeResult holds len h⟩

/-- What an instruction that tests a result leaves (49_comparison.md R262). -/
theorem writesFlags_logic {r : Word} (holds : Statements.Holds c s) (len : l.len = 4)
    (h : exec i s = execute c l s fun npc => .ok (s.writeFlags (logicFlags r).flags npc)) :
    Statements.WritesFlags i s (Statements.LogicFlagsOf r) :=
  ⟨_, logicFlagsOf_logicFlags r, exec_writeFlags holds len h⟩

/-- What a division with a quotient leaves (43_arithmetic.md R173). -/
theorem writesResult_division {d : Reg} {r : Word} {f : Fault} {impossible : Bool} (holds : Statements.Holds c s)
    (len : l.len = 4) (possible : impossible = false)
    (h : exec i s = execute c l s fun npc =>
      if impossible then .error f else .ok (s.writeResult d (logicFlags r) npc)) :
    Statements.WritesResult i s d r (Statements.LogicFlagsOf r) :=
  writesResult_logic holds len (by rw [h, possible]; rfl)

/-- A division without a quotient raises its fault (43_arithmetic.md R173). -/
theorem fault_of_division {d : Reg} {r : Word} {f : Fault} {impossible : Bool} (holds : Statements.Holds c s)
    (h : exec i s = execute c l s fun npc =>
      if impossible then .error f else .ok (s.writeResult d (logicFlags r) npc))
    (isImpossible : impossible = true) : exec i s = .fault f :=
  exec_of_body_error holds h (by rw [isImpossible]; rfl)

end

/-- Settles O20: the product of words is the product modulo 2^32 under both readings. -/
theorem multiplyResult : Obligations.MultiplyResult :=
  fun _ _ x y s holds => ⟨s.reg x * s.reg y, BitVec.toNat_mul _ _, BitVec.toInt_mul _ _,
    writesResult_logic holds rfl rfl⟩

theorem signedQuotient_eq (a b : Word) : signedQuotient a b = a.sdiv b :=
  BitVec.eq_of_toInt_eq (by rw [signedQuotient, BitVec.toInt_ofInt, BitVec.toInt_sdiv])

theorem signedRemainder_eq (a b : Word) : signedRemainder a b = a.srem b := by
  have remainder : a.toInt - a.toInt.tdiv b.toInt * b.toInt = (a.srem b).toInt := by
    rw [BitVec.toInt_srem, Int.tmod_def, mul_comm]
  rw [signedRemainder, remainder, BitVec.ofInt_toInt]

theorem unsignedQuotient_eq (a b : Word) : unsignedQuotient a b = a / b := by
  rw [unsignedQuotient, ← BitVec.toNat_udiv, BitVec.ofNat_toNat, BitVec.setWidth_eq]

theorem unsignedRemainder_eq (a b : Word) : unsignedRemainder a b = a % b := by
  have remainder : a.toNat - a.toNat / b.toNat * b.toNat = (a % b).toNat := by
    rw [BitVec.toNat_umod, mul_comm, Nat.mod_eq_sub]
  rw [unsignedRemainder, remainder, BitVec.ofNat_toNat, BitVec.setWidth_eq]

/-- Which signed divisions have no quotient (43_arithmetic.md R173). -/
theorem noSignedQuotient_iff (a b : Word) :
    noSignedQuotient a b = true ↔ b = 0#32 ∨ a = 0x80000000#32 ∧ b = 0xFFFFFFFF#32 := by
  simp [noSignedQuotient]

/-- The signed quotient and remainder of a division that has a quotient (43_arithmetic.md R173). -/
theorem signedDivision {a b : Word} (possible : noSignedQuotient a b = false) :
    (signedQuotient a b).toInt = a.toInt.tdiv b.toInt ∧
      a.toInt = (signedQuotient a b).toInt * b.toInt + (signedRemainder a b).toInt ∧
      (signedRemainder a b).toInt.natAbs < b.toInt.natAbs ∧
      ((signedRemainder a b).toInt = 0 ∨ ((signedRemainder a b).toInt < 0 ↔ a.toInt < 0)) := by
  rw [← Bool.not_eq_true, noSignedQuotient_iff, not_or] at possible
  obtain ⟨nonzero, fits⟩ := possible
  have divisor : b.toInt ≠ 0 := fun zero => nonzero (BitVec.eq_of_toInt_eq zero)
  have quotient : (signedQuotient a b).toInt = a.toInt.tdiv b.toInt := by
    rw [signedQuotient_eq, BitVec.toInt_sdiv_of_ne_or_ne a b (not_and_or.mp fits)]
  have remainder : (signedRemainder a b).toInt = a.toInt.tmod b.toInt := by
    rw [signedRemainder_eq, BitVec.toInt_srem]
  rw [quotient, remainder]
  refine ⟨rfl, ?_, ?_, ?_⟩
  · rw [mul_comm]; exact (Int.mul_tdiv_add_tmod _ _).symm
  · rw [Int.natAbs_tmod]
    exact Nat.mod_lt _ (Int.natAbs_pos.mpr divisor)
  · have sign := Int.sign_tmod a.toInt b.toInt
    split at sign
    · exact .inl (Int.sign_eq_zero_iff_zero.mp sign)
    · rw [← Int.sign_eq_neg_one_iff_neg, ← Int.sign_eq_neg_one_iff_neg, sign]
      exact .inr Iff.rfl

/-- Settles O21: the signed clauses are those of the division that rounds toward zero, the unsigned ones those of the
natural numbers. -/
theorem divisionRule : Obligations.DivisionRule := by
  intro c d x y s holds
  have zero (h : s.reg y = 0#32) : (s.reg y == 0#32) = true := beq_iff_eq.mpr h
  refine ⟨fun h => ?_, fun h h' => ?_, fun h h' => ?_, fun h => ?_⟩
  · have none := (noSignedQuotient_iff (s.reg x) (s.reg y)).mpr (.inl h)
    exact ⟨fault_of_division holds rfl none, fault_of_division holds rfl none, fault_of_division holds rfl (zero h),
      fault_of_division holds rfl (zero h)⟩
  · have none := (noSignedQuotient_iff (s.reg x) (s.reg y)).mpr (.inr ⟨h, h'⟩)
    exact ⟨fault_of_division holds rfl none, fault_of_division holds rfl none⟩
  · have possible : noSignedQuotient (s.reg x) (s.reg y) = false := by
      rw [← Bool.not_eq_true, noSignedQuotient_iff, not_or]
      exact ⟨h, h'⟩
    obtain ⟨quotient, remainder, small, sign⟩ := signedDivision possible
    exact ⟨_, _, quotient, remainder, small, sign, writesResult_division holds rfl possible rfl,
      writesResult_division holds rfl possible rfl⟩
  · have possible : (s.reg y == 0#32) = false := beq_eq_false_iff_ne.mpr h
    have positive : 0 < (s.reg y).toNat := Nat.pos_of_ne_zero fun e => h (BitVec.eq_of_toNat_eq e)
    refine ⟨_, _, ?_, ?_, writesResult_division holds rfl possible rfl, writesResult_division holds rfl possible rfl⟩
    · rw [unsignedQuotient_eq, unsignedRemainder_eq, BitVec.toNat_udiv, BitVec.toNat_umod, mul_comm]
      exact (Nat.div_add_mod _ _).symm
    · rw [unsignedRemainder_eq, BitVec.toNat_umod]
      exact Nat.mod_lt _ positive

/-- The value of ABS, read as unsigned, is the absolute value of its signed operand (43_arithmetic.md R182). -/
theorem absFlags_toNat (a : Word) : (absFlags a).value.toNat = a.toInt.natAbs := by
  have value : (absFlags a).value = if a.msb then 0#32 - a else a := rfl
  have := a.isLt
  rw [value, BitVec.toInt_eq_msb_cond]
  split
  · rename_i negative
    have := BitVec.toNat_ge_of_msb_true negative
    rw [BitVec.toNat_sub, BitVec.toNat_ofNat]
    omega
  · omega

/-- Settles O22: V is the comparison with the one word whose absolute value has no signed form. -/
theorem absoluteValueResult : Obligations.AbsoluteValueResult :=
  fun _ d s holds => ⟨_, absFlags_toNat (s.reg d), _, ⟨zn_flagsOf _ _ _, rfl, beq_iff_eq⟩,
    exec_writeResult holds rfl rfl⟩

/-! ## Logical operations and tests -/

/-- The bits of an unsigned 8-bit immediate; those it does not have are 0 (30_encoding.md R99). -/
theorem immZero8_getLsbD (imm : BitVec 8) (k : Nat) : (immZero8 imm).getLsbD k = imm.getLsbD k := by
  rw [immZero8, BitVec.getLsbD_setWidth]
  by_cases h : k < 32
  · simp [h]
  · simp [BitVec.getLsbD_of_ge imm k (by omega)]

/-- The conjunction with an unsigned 8-bit immediate has eight bits (44_logical.md R195). -/
theorem and_immZero8_le (a : Word) (imm : BitVec 8) : (a &&& immZero8 imm).toNat ≤ 0xFF := by
  have := imm.isLt
  rw [BitVec.toNat_and, immZero8_toNat]
  exact Nat.and_le_right.trans (by omega)

/-- A result of eight bits is not negative (44_logical.md R195). -/
theorem n_clear_of_le {r : Word} {f : Flags} (small : r.toNat ≤ 0xFF) (flags : Statements.LogicFlagsOf r f) :
    Statements.LogicFlagsOf r f ∧ f.n = false := by
  refine ⟨flags, ?_⟩
  obtain ⟨⟨-, negative⟩, -, -⟩ := flags
  rw [← Bool.not_eq_true, negative, BitVec.toInt_eq_toNat_cond]
  split <;> omega

/-- Settles O23: each result is the operation of the words, whose bits are the operation of their bits. -/
theorem logicalResults : Obligations.LogicalResults := by
  intro c d x y imm s holds
  refine ⟨⟨_, fun k => BitVec.getLsbD_and, writesResult_logic holds rfl rfl⟩,
    ⟨_, fun k => BitVec.getLsbD_or, writesResult_logic holds rfl rfl⟩,
    ⟨_, fun k => BitVec.getLsbD_xor, writesResult_logic holds rfl rfl⟩,
    ⟨_, fun k hk => ?not, writesResult_logic holds rfl rfl⟩, ?andi,
    ⟨_, fun k => ?ori, writesResult_logic holds rfl rfl⟩, ⟨_, fun k => ?xori, writesResult_logic holds rfl rfl⟩⟩
  case not => simp [hk]
  case andi =>
    obtain ⟨f, flags, run⟩ := writesResult_logic (i := .andi c d x imm) holds rfl rfl
    have small := and_immZero8_le (s.reg x) imm
    exact ⟨_, fun k => by rw [BitVec.getLsbD_and, immZero8_getLsbD], small, f, n_clear_of_le small flags, run⟩
  case ori => rw [BitVec.getLsbD_or, immZero8_getLsbD]
  case xori => rw [BitVec.getLsbD_xor, immZero8_getLsbD]

/-- Settles O44: the flags of the conjunction, which is not written. -/
theorem testResults : Obligations.TestResults := by
  intro c x y imm s holds
  refine ⟨⟨_, fun k => BitVec.getLsbD_and, writesFlags_logic holds rfl rfl⟩, ?_⟩
  obtain ⟨f, flags, run⟩ := writesFlags_logic (i := .tsti c x imm) holds rfl rfl
  exact ⟨_, fun k => by rw [BitVec.getLsbD_and, immZero8_getLsbD], f,
    n_clear_of_le (and_immZero8_le (s.reg x) imm) flags, run⟩

/-- Settles O45: the function is the open parameter `CMPF_FN`. -/
theorem compareFloatDependsOnTheTwoWords : Obligations.CompareFloatDependsOnTheTwoWords :=
  ⟨Config.cmpfFn, fun _ _ _ _ holds => exec_of_pure holds rfl⟩

/-! ## Shifts and rotations -/

/-- A left shift multiplies modulo 2^32 (45_shift.md R201). -/
theorem shiftLeft_toNat (a : Word) (n : Nat) : (a <<< n).toNat = a.toNat * 2 ^ n % 2 ^ 32 := by
  rw [BitVec.toNat_shiftLeft, Nat.shiftLeft_eq]

/-- A logical right shift divides the unsigned value (45_shift.md R202). -/
theorem shiftRight_toNat (a : Word) (n : Nat) : (a >>> n).toNat = a.toNat / 2 ^ n := by
  rw [BitVec.toNat_ushiftRight, Nat.shiftRight_eq_div_pow]

/-- An arithmetic right shift divides the signed value, rounding toward minus infinity (45_shift.md R203). -/
theorem sshiftRight_toInt (a : Word) (n : Nat) : (a.sshiftRight n).toInt = a.toInt / 2 ^ n := by
  rw [BitVec.toInt_sshiftRight, Int.shiftRight_eq_div_pow]
  norm_cast

/-- The model's rotation is the library's for the counts it is used with (45_shift.md R204). -/
theorem rotateLeft_eq {n : Nat} (a : Word) (h : n < 32) : rotateLeft a n = a.rotateLeft n := by
  rw [rotateLeft, BitVec.rotateLeft, BitVec.rotateLeftAux, Nat.mod_eq_of_lt h]
  split
  · subst n; simp [BitVec.ushiftRight_eq_zero]
  · rfl

/-- The model's rotation is the library's for the counts it is used with (45_shift.md R205). -/
theorem rotateRight_eq {n : Nat} (a : Word) (h : n < 32) : rotateRight a n = a.rotateRight n := by
  rw [rotateRight, BitVec.rotateRight, BitVec.rotateRightAux, Nat.mod_eq_of_lt h]
  split
  · subst n; simp
  · rfl

/-- A rotation left moves bit `k` up by the count, around the end (45_shift.md R204). -/
theorem rotateLeft_getLsbD (a : Word) {n k : Nat} (h : n < 32) (hk : k < 32) :
    (rotateLeft a n).getLsbD ((k + n) % 32) = a.getLsbD k := by
  rw [rotateLeft_eq a h, BitVec.getLsbD_rotateLeft_of_le h]
  by_cases wraps : k + n < 32
  · have below : ¬(k + n) % 32 < n := by omega
    have source : (k + n) % 32 - n = k := by omega
    simp [below, source, Nat.mod_lt]
  · have below : (k + n) % 32 < n := by omega
    have source : 32 - n + (k + n) % 32 = k := by omega
    simp [below, source]

/-- A rotation right moves bit `k` plus the count, around the end, down to bit `k` (45_shift.md R205). -/
theorem rotateRight_getLsbD (a : Word) {n k : Nat} (h : n < 32) (hk : k < 32) :
    (rotateRight a n).getLsbD k = a.getLsbD ((k + n) % 32) := by
  rw [rotateRight_eq a h, BitVec.getLsbD_rotateRight_of_lt h]
  by_cases wraps : k + n < 32
  · have below : k < 32 - n := by omega
    have source : (k + n) % 32 = n + k := by omega
    simp [below, source]
  · have below : ¬k < 32 - n := by omega
    have source : (k + n) % 32 = k - (32 - n) := by omega
    simp [below, source, hk]

/-- Settles O24: each shift is its arithmetic on the words, each rotation moves the bits, and a register count is taken
modulo 32. -/
theorem shiftResults : Obligations.ShiftResults := by
  intro c d x y imm s holds
  have count : (s.reg y).toNat % 32 < 32 := Nat.mod_lt _ (by decide)
  rw [← shiftCount_eq] at count
  refine ⟨⟨_, ?_, writesResult_logic holds rfl rfl⟩, ⟨_, ?_, writesResult_logic holds rfl rfl⟩,
    ⟨_, ?_, writesResult_logic holds rfl rfl⟩, ⟨_, fun k hk => ?_, writesResult_logic holds rfl rfl⟩,
    ⟨_, fun k hk => ?_, writesResult_logic holds rfl rfl⟩,
    ⟨_, shiftLeft_toNat _ _, writesResult_logic holds rfl rfl⟩,
    ⟨_, shiftRight_toNat _ _, writesResult_logic holds rfl rfl⟩,
    ⟨_, sshiftRight_toInt _ _, writesResult_logic holds rfl rfl⟩⟩
  · rw [shiftLeft_toNat, shiftCount_eq]
  · rw [shiftRight_toNat, shiftCount_eq]
  · rw [sshiftRight_toInt, shiftCount_eq]
  · rw [← rotateLeft_getLsbD _ count hk, shiftCount_eq, Nat.add_mod_mod]
  · rw [rotateRight_getLsbD _ count hk, shiftCount_eq, Nat.add_mod_mod]

/-! ## Jumps -/

/-- A target relative to the next instruction of a four-byte one (48_control_flow.md R251). -/
theorem relativeTarget_toNat (pc : Word) (rel : BitVec 8) :
    ((targetRel8 (pc + 4#32) rel).toNat : Int) = (pc.toNat + 4 + rel.toInt) % 2 ^ 32 := by
  rw [targetRel8_toNat, BitVec.toNat_add, BitVec.toNat_ofNat]
  omega

/-- Settles O40: the three write `pc` alone, with the target that their operand form is worth. -/
theorem jumpResults : Obligations.JumpResults :=
  fun c r rel addr s holds =>
    ⟨⟨_, target24_toNat addr, exec_of_pure holds (rfl : execJmp c addr s = _)⟩, exec_jmpr_of_holds holds r,
      ⟨_, relativeTarget_toNat s.pc rel, exec_of_pure holds (rfl : execBra c rel s = _)⟩⟩

end Sys2Proof.Machine

/-! PROOFS. Loads, stores, the one-word stack instructions, calls and returns (46_memory_ops.md, 47_stack.md,
48_control_flow.md, 20_memory.md R54). -/

namespace Sys2Proof.Machine

/-! ## Narrow reads of a stored word -/

/-- A narrow read of an aligned address inside memory answers, with memory's bytes (20_memory.md R57). -/
theorem State.memRead_of_inside {s : State} {addr : Word} {w : Width} (aligned : addr.toNat % w.bytes = 0)
    (inside : addr.toNat + w.bytes ≤ s.memSize) : s.memRead addr w = .ok (s.mem.readWidth addr.toNat w) :=
  (s.memRead_ok addr w _).mpr ⟨⟨aligned, inside⟩, rfl⟩

/-- Settles O27: the bytes of the store, read one, two or four at a time. -/
theorem narrowReadsOfStoredWord : Obligations.NarrowReadsOfStoredWord := by
  intro s t a v h
  obtain ⟨⟨aligned, inside⟩, rfl⟩ := (s.memWrite_ok a .word v t).mp h
  obtain ⟨stored, -⟩ := s.mem.stored_writeWidth a.toNat .word v
  have word := s.mem.readWord_writeWord a.toNat v
  generalize s.mem.writeBytes a.toNat (Width.word.split v) = m at stored word ⊢
  have address {k : Nat} (hk : k < 4) : (a + BitVec.ofNat 32 k).toNat = a.toNat + k :=
    aligned_add_toNat (w := .word) aligned hk
  have address2 : (a + 2#32).toNat = a.toNat + 2 := address (by decide)
  simp only [Width.bytes] at aligned inside stored
  have byte0 : (m.read a.toNat).toNat = v.toNat / 2 ^ 24 % 2 ^ 8 := stored 0 (by decide)
  have byte1 : (m.read (a.toNat + 1)).toNat = v.toNat / 2 ^ 16 % 2 ^ 8 := stored 1 (by decide)
  have byte2 : (m.read (a.toNat + 2)).toNat = v.toNat / 2 ^ 8 % 2 ^ 8 := stored 2 (by decide)
  have byte3 : (m.read (a.toNat + 2 + 1)).toNat = v.toNat / 2 ^ 0 % 2 ^ 8 := stored 3 (by decide)
  have := v.isLt
  refine ⟨?word, fun k hk => ?byte, ?high, ?low⟩
  case word =>
    rw [State.memRead_of_inside aligned inside, State.setMem_mem, word]
  case byte =>
    refine ⟨_, State.memRead_of_inside (Nat.mod_one _) ?_, ?_⟩
    · rw [address hk, State.setMem_memSize, Width.bytes]
      omega
    · rw [address hk, Memory.readByte_toNat, State.setMem_mem, stored k hk]
  case high =>
    refine ⟨_, State.memRead_of_inside ?_ ?_, ?_⟩
    · rw [Width.bytes]; omega
    · rw [State.setMem_memSize, Width.bytes]; omega
    · rw [Memory.readHalf_toNat, State.setMem_mem]
      omega
  case low =>
    refine ⟨_, State.memRead_of_inside ?_ ?_, ?_⟩
    · rw [address2, Width.bytes]; omega
    · rw [address2, State.setMem_memSize, Width.bytes]; omega
    · rw [address2, Memory.readHalf_toNat, State.setMem_mem]
      omega

/-! ## Loads -/

/-- A sign-extended byte keeps its signed value (46_memory_ops.md R222). -/
theorem signByte_readByte_toInt (m : Memory) (a : Nat) :
    (signByte (m.readWidth a .byte)).toInt = (m.read a).toInt := by
  rw [signByte, Memory.readWidth, BitVec.setWidth_setWidth_of_le _ (by decide), BitVec.setWidth_eq,
    BitVec.toInt_signExtend_of_le (by decide)]

/-- A sign-extended halfword keeps its signed value: the first byte counts as signed, the second as unsigned
(46_memory_ops.md R223). -/
theorem signHalf_readHalf_toInt (m : Memory) (a : Nat) :
    (signHalf (m.readWidth a .half)).toInt = (m.read a).toInt * 2 ^ 8 + (m.read (a + 1)).toNat := by
  rw [signHalf, Memory.readWidth, BitVec.setWidth_setWidth_of_le _ (by decide), BitVec.setWidth_eq,
    BitVec.toInt_signExtend_of_le (by decide), BitVec.toInt_append]
  simp [mul_comm]

section
variable {i : Instr} {c : Cond} {s : State} {d b : Reg} {off : BitVec 8} {w : Width} {extend : Word → Word}

/-- A load whose access is aligned and inside memory completes, writing its register (46_memory_ops.md R215). -/
theorem exec_load (holds : Statements.Holds c s)
    (h : exec i s = execute c .m s fun npc => s.load d b off w extend npc)
    (aligned : (effectiveAddress s b off).toNat % w.bytes = 0)
    (inside : (effectiveAddress s b off).toNat + w.bytes ≤ s.memSize) :
    exec i s = .next ((s.setReg d (extend (s.mem.readWidth (effectiveAddress s b off).toNat w))).setPc (s.pc + 4#32)) :=
  exec_of_body_ok holds h (State.load_ok.mpr ⟨⟨aligned, inside⟩, rfl⟩)

/-- A load whose access faults faults so (46_memory_ops.md R215). -/
theorem exec_load_fault {f : Fault} (holds : Statements.Holds c s)
    (h : exec i s = execute c .m s fun npc => s.load d b off w extend npc)
    (fault : s.accessFault (effectiveAddress s b off) w .read = some f) : exec i s = .fault f :=
  exec_of_body_error holds h (State.load_error.mpr fault)

/-- A store whose access is aligned and inside memory completes, storing the low bytes of its register
(46_memory_ops.md R215). -/
theorem exec_store (holds : Statements.Holds c s)
    (h : exec i s = execute c .m s fun npc => s.store d b off w npc)
    (aligned : (effectiveAddress s b off).toNat % w.bytes = 0)
    (inside : (effectiveAddress s b off).toNat + w.bytes ≤ s.memSize) :
    ∃ m, Statements.Stored s.mem m (effectiveAddress s b off).toNat w.bytes (s.reg d) ∧
      exec i s = .next ((s.setMem m).setPc (s.pc + 4#32)) :=
  ⟨_, s.mem.stored_writeWidth _ w _, exec_of_body_ok holds h (State.store_ok.mpr ⟨⟨aligned, inside⟩, rfl⟩)⟩

/-- A store whose access faults faults so (46_memory_ops.md R215). -/
theorem exec_store_fault {f : Fault} (holds : Statements.Holds c s)
    (h : exec i s = execute c .m s fun npc => s.store d b off w npc)
    (fault : s.accessFault (effectiveAddress s b off) w .write = some f) : exec i s = .fault f :=
  exec_of_body_error holds h (State.store_error.mpr fault)

end

/-- Settles O28: the five are one load, of a width and with an extension. -/
theorem loadResults : Obligations.LoadResults := by
  intro c d b off s ea holds base
  obtain rfl : ea = effectiveAddress s b off := base
  exact ⟨fun aligned inside => ⟨_, Memory.readWord_toNat _ _,
      exec_load (w := .word) (extend := id) holds rfl aligned inside⟩,
    fun inside => ⟨_, Memory.readByte_toNat _ _,
      exec_load (w := .byte) (extend := id) holds rfl (Nat.mod_one _) inside⟩,
    fun inside => ⟨_, signByte_readByte_toInt _ _, exec_load (w := .byte) holds rfl (Nat.mod_one _) inside⟩,
    fun aligned inside => ⟨_, Memory.readHalf_toNat _ _,
      exec_load (w := .half) (extend := id) holds rfl aligned inside⟩,
    fun aligned inside => ⟨_, signHalf_readHalf_toInt _ _, exec_load (w := .half) holds rfl aligned inside⟩⟩

/-- Settles O29: the three are one store, of a width. -/
theorem storeResults : Obligations.StoreResults := by
  intro c r b off s ea holds base
  obtain rfl : ea = effectiveAddress s b off := base
  exact ⟨fun aligned inside => exec_store (w := .word) holds rfl aligned inside,
    fun aligned inside => exec_store (w := .half) holds rfl aligned inside,
    fun inside => exec_store (w := .byte) holds rfl (Nat.mod_one _) inside⟩

/-- Settles O30: each faults as its access does, alignment before range; a byte access is always aligned. -/
theorem loadStoreFaults : Obligations.LoadStoreFaults := by
  intro c r b off s ea holds base
  obtain rfl : ea = effectiveAddress s b off := base
  refine ⟨fun misaligned => ?_, fun aligned outside => ?_, fun misaligned => ?_, fun aligned outside => ?_,
    fun outside => ?_⟩
  · have fault kind := s.accessFault_misaligned (effectiveAddress s b off) .word kind misaligned
    exact ⟨exec_load_fault holds rfl (fault .read), exec_store_fault holds rfl (fault .write)⟩
  · have fault kind := s.accessFault_outside (effectiveAddress s b off) .word kind aligned outside
    exact ⟨exec_load_fault holds rfl (fault .read), exec_store_fault holds rfl (fault .write)⟩
  · have fault kind := s.accessFault_misaligned (effectiveAddress s b off) .half kind misaligned
    exact ⟨exec_load_fault holds rfl (fault .read), exec_load_fault holds rfl (fault .read),
      exec_store_fault holds rfl (fault .write)⟩
  · have fault kind := s.accessFault_outside (effectiveAddress s b off) .half kind aligned outside
    exact ⟨exec_load_fault holds rfl (fault .read), exec_load_fault holds rfl (fault .read),
      exec_store_fault holds rfl (fault .write)⟩
  · have fault kind := s.accessFault_outside (effectiveAddress s b off) .byte kind (Nat.mod_one _) outside
    exact ⟨exec_load_fault holds rfl (fault .read), exec_load_fault holds rfl (fault .read),
      exec_store_fault holds rfl (fault .write)⟩

/-! ## Instructions whose body is one operation that may fault -/

/-- A computation that goes on with an operation's answer answers only where the operation does. -/
theorem map_eq_ok_iff {α β ε : Type} {x : Except ε α} {g : α → β} {b : β} :
    x.map g = .ok b ↔ ∃ a, x = .ok a ∧ b = g a := by
  cases x <;> simp [Except.map, eq_comm]

section
variable {α : Type} {i : Instr} {c : Cond} {l : Layout} {s t : State} {x : Word → Except Fault α}
  {k : Word → α → State}

/-- An instruction whose operation answers goes on with the answer (40_execution_cycle.md R137). -/
theorem exec_of_map_ok {a : α} (holds : Statements.Holds c s)
    (h : exec i s = execute c l s fun npc => (x npc).map (k npc)) (ok : x (s.pc + BitVec.ofNat 32 l.len) = .ok a) :
    exec i s = .next (k (s.pc + BitVec.ofNat 32 l.len) a) :=
  exec_of_body_ok holds h (map_eq_ok_iff.mpr ⟨a, ok, rfl⟩)

/-- An instruction whose operation faults faults so (60_exceptions.md R271). -/
theorem exec_of_map_error {f : Fault} (holds : Statements.Holds c s)
    (h : exec i s = execute c l s fun npc => (x npc).map (k npc))
    (error : x (s.pc + BitVec.ofNat 32 l.len) = .error f) : exec i s = .fault f :=
  exec_of_body_error holds h (by rw [error]; rfl)

/-- The operation of a completed instruction whose condition holds has answered (40_execution_cycle.md R137). -/
theorem map_of_exec (holds : Statements.Holds c s) (h : exec i s = execute c l s fun npc => (x npc).map (k npc))
    (next : exec i s = .next t) :
    ∃ a, x (s.pc + BitVec.ofNat 32 l.len) = .ok a ∧ t = k (s.pc + BitVec.ofNat 32 l.len) a :=
  map_eq_ok_iff.mp (body_of_exec holds h next)

end

theorem State.callTo_eq (s : State) (npc target : Word) :
    s.callTo npc target = (s.push npc).map fun t => t.setPc target := by
  rw [State.callTo]
  cases s.push npc <;> rfl

section
variable (c : Cond) (r : Reg) (imm : BitVec 16) (rel : BitVec 8) (addr : BitVec 24) (s : State)

/-- PUSH goes on after its push (47_stack.md R230). -/
theorem exec_push : exec (.push c r) s = execute c .r s fun npc => (s.push (s.reg r)).map fun t => t.setPc npc := by
  change execPush c r s = _
  rw [execPush]
  cases s.push (s.reg r) <;> rfl

/-- POP writes its register after its pop (47_stack.md R231). -/
theorem exec_pop : exec (.pop c r) s = execute c .r s fun npc => s.pop.map fun p => p.2.writeReg r p.1 npc := by
  change execPop c r s = _
  rw [execPop]
  cases s.pop <;> rfl

/-- PUSHM goes on after its pushes (47_stack.md R232). -/
theorem exec_pushm :
    exec (.pushm c imm) s = execute c .i16 s fun npc => (s.pushAll (maskDown imm)).map fun t => t.setPc npc := by
  change execPushm c imm s = _
  rw [execPushm]
  cases s.pushAll (maskDown imm) <;> rfl

/-- POPM goes on after its pops (47_stack.md R233). -/
theorem exec_popm :
    exec (.popm c imm) s = execute c .i16 s fun npc => (s.popAll (maskUp imm)).map fun t => t.setPc npc := by
  change execPopm c imm s = _
  rw [execPopm]
  cases s.popAll (maskUp imm) <;> rfl

/-- ENTER makes its frame after its push (47_stack.md R234). -/
theorem exec_enter :
    exec (.enter c imm) s = execute c .i16 s fun npc =>
      (s.push (s.reg 15)).map fun t => ((t.setReg 15 t.sp).setSp (t.sp - immZero16 imm)).setPc npc := by
  change execEnter c imm s = _
  rw [execEnter]
  cases s.push (s.reg 15) <;> rfl

/-- LEAVE drops its frame after its read (47_stack.md R235). -/
theorem exec_leave :
    exec (.leave c) s = execute c .n s fun npc =>
      (s.memRead (s.reg 15) .word).map fun v => ((s.setSp (s.reg 15 + 4#32)).setReg 15 v).setPc npc := by
  change execLeave c s = _
  rw [execLeave]
  cases s.memRead (s.reg 15) .word <;> rfl

/-- CALL jumps after its push (48_control_flow.md R247). -/
theorem exec_call :
    exec (.call c addr) s = execute c .j s fun npc => (s.push npc).map fun t => t.setPc (target24 addr) := by
  change execCall c addr s = _
  simp only [execCall, State.callTo_eq]

/-- CALLI jumps after its push, where its register pointed before it (48_control_flow.md R248). -/
theorem exec_calli :
    exec (.calli c r) s = execute c .r s fun npc => (s.push npc).map fun t => t.setPc (s.reg r) := by
  change execCalli c r s = _
  simp only [execCalli, State.callTo_eq]

/-- BSR jumps after its push (48_control_flow.md R252). -/
theorem exec_bsr :
    exec (.bsr c rel) s = execute c .i8 s fun npc => (s.push npc).map fun t => t.setPc (targetRel8 npc rel) := by
  change execBsr c rel s = _
  simp only [execBsr, State.callTo_eq]

/-- RET goes where its pop says (48_control_flow.md R249). -/
theorem exec_ret : exec (.ret c) s = execute c .n s fun _ => s.pop.map fun p => p.2.setPc p.1 := by
  change execRet c s = _
  rw [execRet]
  cases s.pop <;> rfl

end

/-! ## Where the one-word stack instructions complete -/

/-- Settles O32: a push and a pop where their slots are good, and the register and `pc` after them. -/
theorem pushPopResults : Obligations.PushPopResults := by
  intro c r s holds
  refine ⟨fun slot => ?_, fun slot => ?_⟩
  · obtain ⟨m, stored, pushed⟩ := State.push_of_slotOk slot (s.reg r)
    exact ⟨m, stored, exec_of_map_ok holds (exec_push c r s) pushed⟩
  · obtain ⟨v, word, popped⟩ := State.pop_of_slotOk slot
    exact ⟨v, word, exec_of_map_ok holds (exec_pop c r s) popped⟩

/-- ENTER's immediate is an unsigned number of bytes (30_encoding.md R99). -/
theorem immZero16_eq (imm : BitVec 16) : immZero16 imm = BitVec.ofNat 32 imm.toNat :=
  BitVec.eq_of_toNat_eq (by rw [immZero16_toNat, BitVec.toNat_ofNat]; omega)

/-- Settles O37: ENTER is a push and LEAVE a read, each where its slot is good; ALLOCA has no slot. -/
theorem frameInstructionResults : Obligations.FrameInstructionResults := by
  intro c r imm s holds
  refine ⟨fun slot => ?_, fun slot => ?_, exec_of_pure holds rfl⟩
  · obtain ⟨m, stored, pushed⟩ := State.push_of_slotOk slot (s.reg 15)
    rw [← immZero16_eq]
    exact ⟨m, stored, exec_of_map_ok holds (exec_enter c imm s) pushed⟩
  · exact ⟨_, Memory.readWord_toNat _ _,
      exec_of_map_ok holds (exec_leave c s) ((s.memRead_ok _ .word _).mpr ⟨slot, rfl⟩)⟩

/-- Settles O42: the calls are pushes of the address behind them, RET is a pop. -/
theorem callAndReturnResults : Obligations.CallAndReturnResults := by
  intro c r rel addr s holds
  refine ⟨fun slot => ⟨?call, ?calli, ?bsr⟩, fun slot => ?ret⟩
  case call =>
    obtain ⟨m, stored, pushed⟩ := State.push_of_slotOk slot (s.pc + 5#32)
    exact ⟨m, _, stored, target24_toNat addr, exec_of_map_ok holds (exec_call c addr s) pushed⟩
  case calli =>
    obtain ⟨m, stored, pushed⟩ := State.push_of_slotOk slot (s.pc + 4#32)
    exact ⟨m, stored, exec_of_map_ok holds (exec_calli c r s) pushed⟩
  case bsr =>
    obtain ⟨m, stored, pushed⟩ := State.push_of_slotOk slot (s.pc + 4#32)
    exact ⟨m, _, stored, relativeTarget_toNat s.pc rel, exec_of_map_ok holds (exec_bsr c rel s) pushed⟩
  case ret =>
    obtain ⟨v, word, popped⟩ := State.pop_of_slotOk slot
    exact ⟨v, word, exec_of_map_ok holds (exec_ret c s) popped⟩

/-! ## Where they fault -/

/-- Settles O39: each instruction faults as its push, pop or read does. -/
theorem stackFaults : Obligations.StackFaults := by
  intro c r rel imm addr s holds
  have pushing {f : Fault} (push : ∀ v, s.push v = .error f) :
      exec (.push c r) s = .fault f ∧ exec (.enter c imm) s = .fault f ∧ exec (.call c addr) s = .fault f ∧
        exec (.calli c r) s = .fault f ∧ exec (.bsr c rel) s = .fault f :=
    ⟨exec_of_map_error holds (exec_push c r s) (push _), exec_of_map_error holds (exec_enter c imm s) (push _),
      exec_of_map_error holds (exec_call c addr s) (push _), exec_of_map_error holds (exec_calli c r s) (push _),
      exec_of_map_error holds (exec_bsr c rel s) (push _)⟩
  have popping {f : Fault} (pop : s.pop = .error f) : exec (.pop c r) s = .fault f ∧ exec (.ret c) s = .fault f :=
    ⟨exec_of_map_error holds (exec_pop c r s) pop, exec_of_map_error holds (exec_ret c s) pop⟩
  have leaving {f : Fault} (fault : s.accessFault (s.reg 15) .word .read = some f) : exec (.leave c) s = .fault f :=
    exec_of_map_error holds (exec_leave c s) ((s.memRead_error _ .word _).mpr fault)
  exact ⟨fun misaligned => pushing (State.push_of_misaligned misaligned),
    fun aligned outside => pushing (State.push_of_outside aligned outside),
    fun misaligned => popping (State.pop_of_misaligned misaligned),
    fun aligned outside => popping (State.pop_of_outside aligned outside),
    fun misaligned => leaving (s.accessFault_misaligned _ .word .read misaligned),
    fun aligned outside => leaving (s.accessFault_outside _ .word .read aligned outside)⟩

/-! ## LEAVE after ENTER, RET after a call -/

/-- Four equal bytes are equal words. -/
theorem Memory.readWord_congr {m m' : Memory} {a : Nat} (h : ∀ k, k < 4 → m.read (a + k) = m'.read (a + k)) :
    m.readWidth a .word = m'.readWidth a .word := by
  have byte0 := h 0 (by decide)
  rw [Nat.add_zero] at byte0
  rw [Memory.readWidth, Memory.readWidth, byte0, h 1 (by decide), h 2 (by decide), h 3 (by decide)]

/-- A read of the slot of an earlier push gives the word pushed, from any later state that still has its four bytes
(20_memory.md R61). -/
theorem State.memRead_of_push {s t u : State} {v : Word} (pushed : s.push v = .ok t) (size : u.memSize = t.memSize)
    (bytes : ∀ k, k < 4 → u.mem.read (t.sp.toNat + k) = t.mem.read (t.sp.toNat + k)) :
    u.memRead t.sp .word = .ok v := by
  obtain ⟨slot, rfl⟩ := (s.push_ok v t).mp pushed
  refine (u.memRead_ok _ .word v).mpr ⟨?_, ?_⟩
  · rw [size]
    exact slot
  · rw [Memory.readWord_congr bytes]
    exact (Memory.readWord_writeWord _ _ v).symm

/-- A push lowers SP by four (20_memory.md R61). -/
theorem State.sp_of_push {s t : State} {v : Word} (pushed : s.push v = .ok t) : t.sp + 4#32 = s.sp := by
  obtain ⟨-, rfl⟩ := (s.push_ok v t).mp pushed
  exact BitVec.sub_add_cancel _ _

/-- Settles O38: R15 still names the slot of ENTER's push, which LEAVE reads back. -/
theorem leaveUndoesEnter : Obligations.LeaveUndoesEnter := by
  intro c c' imm s t u holds next frame size holds' bytes
  obtain ⟨p, pushed, rfl⟩ := map_of_exec holds (exec_enter c imm s) next
  have slot : u.reg 15 = p.sp := by
    rw [frame, State.reg_setPc, State.reg_setSp, State.reg_setReg_same]
  rw [State.reg_setPc, State.reg_setSp, State.reg_setReg_same] at bytes
  have read : u.memRead (u.reg 15) .word = .ok (s.reg 15) := by
    rw [slot]
    exact State.memRead_of_push pushed size bytes
  refine ⟨_, exec_of_map_ok holds' (exec_leave c' u) read, ?_, ?_, fun r hr => ?_⟩
  · rw [State.setPc_sp, State.setReg_sp, State.setSp_sp, slot, State.sp_of_push pushed]
  · rw [State.reg_setPc, State.reg_setReg_same]
  · rw [State.reg_setPc, State.reg_setReg_other _ _ hr, State.reg_setSp]

/-- RET after a push that is still in place goes to the word pushed and restores SP (48_control_flow.md R249). -/
theorem exec_ret_after_push {c' : Cond} {s p u : State} {v : Word} (pushed : s.push v = .ok p) (sp : u.sp = p.sp)
    (size : u.memSize = p.memSize) (holds' : Statements.Holds c' u)
    (bytes : ∀ k, k < 4 → u.mem.read (p.sp.toNat + k) = p.mem.read (p.sp.toNat + k)) :
    exec (.ret c') u = .next ((u.setSp s.sp).setPc v) := by
  obtain ⟨slot, value⟩ := (u.memRead_ok p.sp .word v).mp (State.memRead_of_push pushed size bytes)
  rw [← sp] at slot value
  have popped := exec_of_map_ok holds' (exec_ret c' u) ((u.pop_ok v _).mpr ⟨slot, value, rfl⟩)
  rwa [sp, State.sp_of_push pushed] at popped

/-- Settles O43: each of the three calls is a push of the address behind it and a jump, which touches neither SP nor
memory. -/
theorem returnGoesBehindTheCall : Obligations.ReturnGoesBehindTheCall := by
  rintro c c' i s t u (⟨addr, rfl⟩ | ⟨r, rfl⟩ | ⟨rel, rfl⟩) holds next sp size holds' bytes
  · obtain ⟨p, pushed, rfl⟩ := map_of_exec holds (exec_call c addr s) next
    exact exec_ret_after_push pushed sp size holds' bytes
  · obtain ⟨p, pushed, rfl⟩ := map_of_exec holds (exec_calli c r s) next
    exact exec_ret_after_push pushed sp size holds' bytes
  · obtain ⟨p, pushed, rfl⟩ := map_of_exec holds (exec_bsr c rel s) next
    exact exec_ret_after_push pushed sp size holds' bytes

end Sys2Proof.Machine

/-! PROOFS. PUSHM and POPM: the registers of a mask in their order, the slots they take, and their faults
(47_stack.md R232, R233). -/

namespace Sys2Proof.Machine

open Statements (SlotOk WordAt pushSlot popSlot DownFrom UpFrom)

/-! ## The registers of a mask -/

/-- A falling list of the mask's registers is the one PUSHM takes (47_stack.md R232). -/
theorem eq_maskDown {mask : BitVec 16} {l : List Reg} (h : DownFrom mask l) : l = maskDown mask := by
  obtain ⟨falling, members⟩ := h
  exact falling.eq_of_mem_iff (pairwise_maskDown mask) fun r => (members r).trans (mem_maskDown mask r).symm

/-- A rising list of the mask's registers is the one POPM takes (47_stack.md R233). -/
theorem eq_maskUp {mask : BitVec 16} {l : List Reg} (h : UpFrom mask l) : l = maskUp mask := by
  obtain ⟨rising, members⟩ := h
  exact rising.eq_of_mem_iff (pairwise_maskUp mask) fun r => (members r).trans (mem_maskUp mask r).symm

/-- POPM takes the registers that PUSHM takes, in the other order (47_stack.md R233). -/
theorem reverse_maskDown (mask : BitVec 16) : (maskDown mask).reverse = maskUp mask :=
  eq_maskUp ⟨List.pairwise_reverse.mpr (pairwise_maskDown mask), fun r => by rw [List.mem_reverse, mem_maskDown]⟩

theorem nodup_maskDown (mask : BitVec 16) : (maskDown mask).Nodup := (pairwise_maskDown mask).imp ne_of_gt

theorem nodup_maskUp (mask : BitVec 16) : (maskUp mask).Nodup := (pairwise_maskUp mask).imp ne_of_lt

/-- A mask selects at most sixteen registers. -/
theorem length_maskDown_le (mask : BitVec 16) : (maskDown mask).length ≤ 16 := by
  simpa using (nodup_maskDown mask).length_le_card

/-! ## The slots -/

/-- The slots below a pushed word are the later slots of the state before the push. -/
theorem pushSlot_after_push {s t : State} (h : t.sp = s.sp - 4#32) (j : Nat) : pushSlot t j = pushSlot s (j + 1) := by
  rw [pushSlot, pushSlot, h, sub_sub, show 4 * (j + 1 + 1) = 4 + 4 * (j + 1) by omega, BitVec.ofNat_add]

/-- The slots above a popped word are the later slots of the state before the pop. -/
theorem popSlot_after_pop {s t : State} (h : t.sp = s.sp + 4#32) (j : Nat) : popSlot t j = popSlot s (j + 1) := by
  rw [popSlot, popSlot, h, add_assoc, show 4 * (j + 1) = 4 + 4 * j by omega, BitVec.ofNat_add]

theorem popSlot_zero (s : State) : popSlot s 0 = s.sp := BitVec.add_zero _

/-- Two good slots of one PUSHM have no byte in common. -/
theorem pushSlot_disjoint {s : State} {i j : Nat} (hi : SlotOk s (pushSlot s i)) (hj : SlotOk s (pushSlot s j))
    (less : i < j) (small : 4 * (j + 1) ≤ 2 ^ 32) :
    (pushSlot s i).toNat + 4 ≤ (pushSlot s j).toNat ∨ (pushSlot s j).toNat + 4 ≤ (pushSlot s i).toNat := by
  obtain ⟨alignedI, -⟩ := hi
  obtain ⟨alignedJ, -⟩ := hj
  have distinct : (pushSlot s i).toNat ≠ (pushSlot s j).toNat := by
    simp only [pushSlot, BitVec.toNat_sub, BitVec.toNat_ofNat]
    omega
  omega

/-- Four bytes are a word exactly when reading them as one gives it. -/
theorem wordAt_iff (m : Memory) (a : Nat) (v : Word) : WordAt m a v ↔ m.readWidth a .word = v := by
  rw [WordAt, ← Memory.readWord_toNat, ← BitVec.toNat_inj, eq_comm]

/-! ## Pushing a list of registers -/

/-- When a list of pushes answers: when the first push does, and the others after it. -/
theorem State.pushAll_cons_ok {s t : State} {r : Reg} {rest : List Reg} :
    s.pushAll (r :: rest) = .ok t ↔ ∃ u, s.push (s.reg r) = .ok u ∧ u.pushAll rest = .ok t := by
  rw [State.pushAll]
  cases s.push (s.reg r) <;> simp

/-- When a list of pushes faults: when the first push does, or the others after it. -/
theorem State.pushAll_cons_error {s : State} {r : Reg} {rest : List Reg} {f : Fault} :
    s.pushAll (r :: rest) = .error f ↔
      s.push (s.reg r) = .error f ∨ ∃ u, s.push (s.reg r) = .ok u ∧ u.pushAll rest = .error f := by
  rw [State.pushAll]
  cases s.push (s.reg r) <;> simp

/-- Pushes into good slots store the registers, each in its slot, and nothing outside the slots (47_stack.md R232). -/
theorem State.pushAll_of_slots {s : State} {l : List Reg} (small : 4 * l.length ≤ 2 ^ 32)
    (slots : ∀ j, j < l.length → SlotOk s (pushSlot s j)) :
    ∃ m, s.pushAll l = .ok ((s.setMem m).setSp (s.sp - BitVec.ofNat 32 (4 * l.length))) ∧
      (∀ j (h : j < l.length), WordAt m (pushSlot s j).toNat (s.reg l[j])) ∧
      ∀ q, (∀ j, j < l.length → q < (pushSlot s j).toNat ∨ (pushSlot s j).toNat + 4 ≤ q) →
        m.read q = s.mem.read q := by
  induction l generalizing s with
  | nil =>
    refine ⟨s.mem, ?_, by simp, fun _ _ => rfl⟩
    have sp : s.sp - BitVec.ofNat 32 (4 * ([] : List Reg).length) = s.sp := sub_zero _
    rw [sp, State.pushAll]
    rfl
  | cons r rest ih =>
    simp only [List.length_cons] at small slots ⊢
    have slot0 : SlotOk s (s.sp - 4#32) := slots 0 (by omega)
    obtain ⟨u, pushed⟩ : ∃ u, s.push (s.reg r) = .ok u := ⟨_, (s.push_ok _ _).mpr ⟨slot0, rfl⟩⟩
    obtain ⟨-, after⟩ := (s.push_ok _ _).mp pushed
    have sp : u.sp = s.sp - 4#32 := by rw [after]; rfl
    have size : u.memSize = s.memSize := by rw [after]; rfl
    have reg (q : Reg) : u.reg q = s.reg q := by rw [after]; rfl
    have mem : u.mem = s.mem.writeBytes (pushSlot s 0).toNat (Width.word.split (s.reg r)) := by rw [after]; rfl
    obtain ⟨m, run, words, frame⟩ := ih (s := u) (by omega) fun j hj => by
      rw [pushSlot_after_push sp, SlotOk, size]
      exact slots (j + 1) (by omega)
    simp only [pushSlot_after_push sp, reg] at words frame
    refine ⟨m, ?_, fun j hj => ?_, fun q outside => ?_⟩
    · refine State.pushAll_cons_ok.mpr ⟨u, pushed, ?_⟩
      rw [run, sp, sub_sub, Nat.mul_add, Nat.mul_one, Nat.add_comm, BitVec.ofNat_add, after]
      rfl
    · cases j with
      | zero =>
        rw [wordAt_iff, List.getElem_cons_zero,
          ← Memory.readWord_writeWord s.mem (pushSlot s 0).toNat (s.reg r), ← mem]
        refine Memory.readWord_congr fun k hk => frame _ fun i hi => ?_
        have := pushSlot_disjoint (slots 0 (by omega)) (slots (i + 1) (by omega)) (by omega) (by omega)
        omega
      | succ j => exact words j (by omega)
    · rw [frame q fun j hj => outside (j + 1) (by omega), mem]
      exact Memory.read_writeWidth_other _ _ .word _ (outside 0 (by omega))

/-- Every slot of a list of pushes that answered was good. -/
theorem State.slots_of_pushAll {s t : State} {l : List Reg} (h : s.pushAll l = .ok t) :
    ∀ j, j < l.length → SlotOk s (pushSlot s j) := by
  induction l generalizing s with
  | nil => simp
  | cons r rest ih =>
    obtain ⟨u, pushed, run⟩ := State.pushAll_cons_ok.mp h
    obtain ⟨slot, rfl⟩ := (s.push_ok _ _).mp pushed
    intro j hj
    cases j with
    | zero => exact slot
    | succ j =>
      rw [← pushSlot_after_push (t := (s.setMem _).setSp (s.sp - 4#32)) rfl]
      exact ih run j (by simpa using hj)

/-- The first bad slot of a list of pushes is its fault (47_stack.md R232). -/
theorem State.pushAll_of_fault {s : State} {l : List Reg} {j : Nat} {f : Fault} (hj : j < l.length)
    (before : ∀ i, i < j → SlotOk s (pushSlot s i)) (fault : s.accessFault (pushSlot s j) .word .write = some f) :
    s.pushAll l = .error f := by
  induction l generalizing s j with
  | nil => simp at hj
  | cons r rest ih =>
    refine State.pushAll_cons_error.mpr ?_
    cases j with
    | zero => exact .inl ((s.push_error _ f).mpr fault)
    | succ j =>
      refine .inr ⟨_, (s.push_ok _ _).mpr ⟨before 0 (by omega), rfl⟩, ih (j := j) (by simpa using hj) ?_ ?_⟩
      · intro i hi
        rw [pushSlot_after_push (s := s) rfl]
        exact before (i + 1) (by omega)
      · rw [pushSlot_after_push (s := s) rfl]
        exact fault

/-! ## Popping a list of registers -/

/-- When a list of pops answers: when the first pop does, and the others after it. -/
theorem State.popAll_cons_ok {s t : State} {r : Reg} {rest : List Reg} :
    s.popAll (r :: rest) = .ok t ↔ ∃ v u, s.pop = .ok (v, u) ∧ (u.setReg r v).popAll rest = .ok t := by
  rw [State.popAll]
  rcases s.pop with _ | ⟨v, u⟩ <;> simp

/-- When a list of pops faults: when the first pop does, or the others after it. -/
theorem State.popAll_cons_error {s : State} {r : Reg} {rest : List Reg} {f : Fault} :
    s.popAll (r :: rest) = .error f ↔
      s.pop = .error f ∨ ∃ v u, s.pop = .ok (v, u) ∧ (u.setReg r v).popAll rest = .error f := by
  rw [State.popAll]
  rcases s.pop with _ | ⟨v, u⟩ <;> simp

/-- Pops from good slots fill the registers, each from its slot, and change no memory (47_stack.md R233). -/
theorem State.popAll_of_slots {s : State} {l : List Reg} (nodup : l.Nodup)
    (slots : ∀ j, j < l.length → SlotOk s (popSlot s j)) :
    ∃ t, s.popAll l = .ok t ∧ t = (s.setRegs t.regs).setSp (s.sp + BitVec.ofNat 32 (4 * l.length)) ∧
      ∀ j (h : j < l.length), WordAt s.mem (popSlot s j).toNat (t.reg l[j]) := by
  induction l generalizing s with
  | nil =>
    have sp : s.sp + BitVec.ofNat 32 (4 * ([] : List Reg).length) = s.sp := add_zero _
    refine ⟨s, rfl, ?_, by simp⟩
    rw [sp]
    rfl
  | cons r rest ih =>
    simp only [List.length_cons] at slots ⊢
    obtain ⟨fresh, nodup⟩ := List.nodup_cons.mp nodup
    have slot0 : SlotOk s s.sp := popSlot_zero s ▸ slots 0 (by omega)
    have popped := (s.pop_ok _ _).mpr ⟨slot0, rfl, rfl⟩
    obtain ⟨t, run, frame, words⟩ := ih (s := (s.setSp (s.sp + 4#32)).setReg r (s.mem.readWidth s.sp.toNat .word))
      nodup fun j hj => by
        rw [popSlot_after_pop (s := s) rfl]
        exact slots (j + 1) (by omega)
    obtain ⟨-, -, -, -, -, -, -, others⟩ := State.popAll_keeps run
    refine ⟨t, State.popAll_cons_ok.mpr ⟨_, _, popped, run⟩, ?_, fun j hj => ?_⟩
    · rw [Nat.mul_add, Nat.mul_one, Nat.add_comm, BitVec.ofNat_add, ← add_assoc]
      exact frame
    · cases j with
      | zero =>
        rw [popSlot_zero, wordAt_iff, List.getElem_cons_zero, others r fresh, State.reg_setReg_same]
      | succ j =>
        rw [← popSlot_after_pop (t := (s.setSp (s.sp + 4#32)).setReg r _) rfl]
        exact words j (by omega)

/-- The first bad slot of a list of pops is its fault (47_stack.md R233). -/
theorem State.popAll_of_fault {s : State} {l : List Reg} {j : Nat} {f : Fault} (hj : j < l.length)
    (before : ∀ i, i < j → SlotOk s (popSlot s i)) (fault : s.accessFault (popSlot s j) .word .read = some f) :
    s.popAll l = .error f := by
  induction l generalizing s j with
  | nil => simp at hj
  | cons r rest ih =>
    refine State.popAll_cons_error.mpr ?_
    cases j with
    | zero => exact .inl ((s.pop_error f).mpr (popSlot_zero s ▸ fault))
    | succ j =>
      have slot0 : SlotOk s s.sp := popSlot_zero s ▸ before 0 (by omega)
      refine .inr ⟨_, _, (s.pop_ok _ _).mpr ⟨slot0, rfl, rfl⟩, ih (j := j) (by simpa using hj) ?_ ?_⟩
      · intro i hi
        rw [popSlot_after_pop (s := s) rfl]
        exact before (i + 1) (by omega)
      · rw [popSlot_after_pop (s := s) rfl]
        exact fault

/-! ## The two instructions -/

/-- Settles O33: the pushes of the mask's registers, from the highest down. -/
theorem pushmResult : Obligations.PushmResult := by
  intro c mask l s holds order slots
  obtain rfl := eq_maskDown order
  have small := length_maskDown_le mask
  obtain ⟨m, run, words, frame⟩ := State.pushAll_of_slots (by omega) slots
  exact ⟨m, exec_of_map_ok holds (exec_pushm c mask s) run, words, frame⟩

/-- Settles O34: the pops of the mask's registers, from the lowest up. -/
theorem popmResult : Obligations.PopmResult := by
  intro c mask l s holds order slots
  obtain rfl := eq_maskUp order
  obtain ⟨t, run, frame, words⟩ := State.popAll_of_slots (nodup_maskUp mask) slots
  obtain ⟨-, -, -, -, -, -, -, others⟩ := State.popAll_keeps run
  refine ⟨_, exec_of_map_ok holds (exec_popm c mask s) run, congrArg (State.setPc · _) frame, words, fun r hr => ?_⟩
  exact others r (by rw [mem_maskUp, hr]; decide)

/-- Settles O36: the fault of the first bad slot in push or pop order. -/
theorem pushmPopmFaults : Obligations.PushmPopmFaults := by
  intro c mask l j s holds hj
  refine ⟨fun order before => ?_, fun order before => ?_⟩
  · obtain rfl := eq_maskDown order
    have pushing {f : Fault} (fault : s.accessFault (pushSlot s j) .word .write = some f) :
        exec (.pushm c mask) s = .fault f :=
      exec_of_map_error holds (exec_pushm c mask s) (State.pushAll_of_fault hj before fault)
    exact ⟨fun misaligned => pushing (s.accessFault_misaligned _ .word .write misaligned),
      fun aligned outside => pushing (s.accessFault_outside _ .word .write aligned outside)⟩
  · obtain rfl := eq_maskUp order
    have popping {f : Fault} (fault : s.accessFault (popSlot s j) .word .read = some f) :
        exec (.popm c mask) s = .fault f :=
      exec_of_map_error holds (exec_popm c mask s) (State.popAll_of_fault hj before fault)
    exact ⟨fun misaligned => popping (s.accessFault_misaligned _ .word .read misaligned),
      fun aligned outside => popping (s.accessFault_outside _ .word .read aligned outside)⟩

/-! ## POPM after PUSHM -/

/-- From where `n` pushes left SP, the pops go back through the slots of the pushes, the last one first. -/
theorem popSlot_eq_pushSlot {s u : State} {n j : Nat} (sp : u.sp = s.sp - BitVec.ofNat 32 (4 * n)) (hj : j < n) :
    popSlot u j = pushSlot s (n - 1 - j) := by
  have count : 4 * n = 4 * (n - 1 - j + 1) + 4 * j := by omega
  rw [popSlot, pushSlot, sp, count, BitVec.ofNat_add, ← sub_sub, sub_add_cancel]

/-- Settles O35: the pops run through the slots of the pushes and the registers of the mask backwards, so each register
meets the slot it was stored in. -/
theorem popmAfterPushmRestores : Obligations.PopmAfterPushmRestores := by
  intro c c' mask s t u holds next sp mem size holds'
  obtain ⟨p, pushed, rfl⟩ := map_of_exec holds (exec_pushm c mask s) next
  have slots := State.slots_of_pushAll pushed
  have small := length_maskDown_le mask
  obtain ⟨m, run, words, -⟩ := State.pushAll_of_slots (by omega) slots
  obtain rfl := Except.ok.inj (pushed.symm.trans run)
  have length : (maskUp mask).length = (maskDown mask).length := by rw [← reverse_maskDown, List.length_reverse]
  have slot {j : Nat} (hj : j < (maskUp mask).length) :
      popSlot u j = pushSlot s ((maskDown mask).length - 1 - j) := popSlot_eq_pushSlot sp (length ▸ hj)
  obtain ⟨v, popped, frame, restored⟩ := State.popAll_of_slots (s := u) (nodup_maskUp mask) fun j hj => by
    rw [slot hj, SlotOk, size]
    exact slots _ (by omega)
  obtain ⟨-, -, -, sameMem, -, -, -, others⟩ := State.popAll_keeps popped
  refine ⟨_, exec_of_map_ok holds' (exec_popm c' mask u) popped, ?_, ?_, fun r hr => ?_, fun r hr => ?_⟩
  · rw [State.setPc_sp, frame, State.setSp_sp, sp, length]
    exact sub_add_cancel _ _
  · exact sameMem.trans mem
  · obtain ⟨j, hj, rfl⟩ := List.getElem_of_mem ((mem_maskUp mask r).mpr hr)
    have down : (maskUp mask)[j] = (maskDown mask)[(maskDown mask).length - 1 - j]'(by omega) := by
      simp only [← reverse_maskDown, List.getElem_reverse]
    have loaded := (wordAt_iff _ _ _).mp (restored j hj)
    have stored := (wordAt_iff _ _ _).mp (words ((maskDown mask).length - 1 - j) (by omega))
    rw [slot hj, mem] at loaded
    rw [State.reg_setPc, ← loaded, down]
    exact stored
  · exact others r (by rw [mem_maskUp, hr]; decide)

end Sys2Proof.Machine

/-! PROOFS. What every instruction leaves behind, and the rules over the whole machine that follow from it
(10_state.md, 20_memory.md R51, 60_exceptions.md R281). -/

namespace Sys2Proof.Machine

open Statements (opcode MayWrite)

/-! ## All that an instruction can leave -/

/-- The opcodes whose instructions write the flags (10_state.md R31). -/
def FlagFamily (op : Nat) : Prop := (0x20 ≤ op ∧ op ≤ 0x4F) ∨ 0x80 ≤ op

/-- The states that an instruction at `s` may leave when it completes, `npc` being the address after it, and which
instructions may leave them. -/
inductive Leaves (i : Instr) (s : State) (npc : Word) : State → Prop
  /-- Nothing but `pc` (40_execution_cycle.md R136). -/
  | skipped : Leaves i s npc (s.setPc npc)
  /-- One register: data movement and loads. -/
  | register {d : Reg} {v : Word} (dest : MayWrite i d) : Leaves i s npc (s.writeReg d v npc)
  /-- Two registers: SWAP. -/
  | registers {d e : Reg} {v w : Word} (dest : MayWrite i d) (dest' : MayWrite i e) :
      Leaves i s npc (((s.setReg d v).setReg e w).setPc npc)
  /-- A register and the flags: arithmetic, logical and shift operations. -/
  | result {d : Reg} {x : Alu} (dest : MayWrite i d) (family : FlagFamily (opcode i)) :
      Leaves i s npc (s.writeResult d x npc)
  /-- The flags: comparisons. -/
  | flags {f : Flags} (family : FlagFamily (opcode i)) : Leaves i s npc (s.writeFlags f npc)
  /-- Bytes inside memory: stores. -/
  | stored {a : Nat} {bs : List Byte} (op : opcode i ∈ [0x51, 0x53, 0x55]) (inside : a + bs.length ≤ s.memSize) :
      Leaves i s npc ((s.setMem (s.mem.writeBytes a bs)).setPc npc)
  /-- Registers on the stack: PUSH, PUSHM. -/
  | pushed {l : List Reg} {t : State} (op : opcode i ∈ [0x60, 0x62]) (run : s.pushAll l = .ok t) :
      Leaves i s npc (t.setPc npc)
  /-- Registers from the stack: POP, POPM. -/
  | popped {l : List Reg} {t : State} (op : opcode i ∈ [0x61, 0x63]) (dests : ∀ r ∈ l, MayWrite i r)
      (run : s.popAll l = .ok t) : Leaves i s npc (t.setPc npc)
  /-- A new frame: ENTER. -/
  | entered {v a b : Word} {t : State} (op : opcode i = 0x64) (dest : MayWrite i 15) (push : s.push v = .ok t) :
      Leaves i s npc (((t.setReg 15 a).setSp b).setPc npc)
  /-- The old frame: LEAVE. -/
  | left {a v : Word} (op : opcode i = 0x65) (dest : MayWrite i 15) :
      Leaves i s npc (((s.setSp a).setReg 15 v).setPc npc)
  /-- SP alone: ALLOCA. -/
  | allocated {a : Word} (op : opcode i = 0x66) : Leaves i s npc ((s.setSp a).setPc npc)
  /-- A target in `pc`: JMP, JMPR, BRA. -/
  | jumped {p : Word} (op : opcode i ∈ [0x70, 0x71, 0x76]) : Leaves i s npc (s.setPc p)
  /-- A return address on the stack and a target in `pc`: CALL, CALLI, BSR. -/
  | called {v p : Word} {t : State} (op : opcode i ∈ [0x72, 0x73, 0x77]) (push : s.push v = .ok t) :
      Leaves i s npc (t.setPc p)
  /-- A return address in `pc`: RET. -/
  | returned {a p : Word} (op : opcode i = 0x74) : Leaves i s npc ((s.setSp a).setPc p)
  /-- The run-state bit: HALT. -/
  | halted (op : opcode i = 0x00) : Leaves i s npc ((s.setHalted true).setPc npc)
  /-- An event handed over: SYSCALL, TRAP, INT, IRET, RETI. -/
  | delivered {e : Event} (op : opcode i ∈ [0x01, 0x02, 0x03, 0x04, 0x75]) : Leaves i s npc (s.deliver e npc)

section
variable {i : Instr} {c : Cond} {s t : State}

/-- What an instruction leaves is what its body answers, or nothing but `pc` (40_execution_cycle.md R136, R137). -/
theorem leaves_of_body {body : Word → Except Fault State} (h : exec i s = execute c i.layout s body)
    (next : exec i s = .next t)
    (answers : ∀ npc u, body npc = .ok u → Leaves i s npc u) :
    Leaves i s (s.pc + BitVec.ofNat 32 i.layout.len) t := by
  rw [h] at next
  obtain ⟨-, ok⟩ | ⟨-, rfl⟩ := execute_next next
  · exact answers _ t ok
  · exact .skipped

/-- What an instruction leaves whose body always answers. -/
theorem leaves_of_pure {answer : Word → State} (h : exec i s = execute c i.layout s fun npc => .ok (answer npc))
    (next : exec i s = .next t) (answers : ∀ npc, Leaves i s npc (answer npc)) :
    Leaves i s (s.pc + BitVec.ofNat 32 i.layout.len) t :=
  leaves_of_body h next fun npc _ ok => Except.ok.inj ok ▸ answers npc

/-- What an instruction leaves whose body is one operation that may fault. -/
theorem leaves_of_map {α : Type} {x : Word → Except Fault α} {k : Word → α → State}
    (h : exec i s = execute c i.layout s fun npc => (x npc).map (k npc)) (next : exec i s = .next t)
    (answers : ∀ npc a, x npc = .ok a → Leaves i s npc (k npc a)) :
    Leaves i s (s.pc + BitVec.ofNat 32 i.layout.len) t :=
  leaves_of_body h next fun npc u ok => by
    obtain ⟨a, run, rfl⟩ := map_eq_ok_iff.mp ok
    exact answers npc a run

/-- What a division leaves. -/
theorem leaves_of_division {d : Reg} {x : Alu} {f : Fault} {impossible : Bool}
    (h : exec i s = execute c i.layout s fun npc => if impossible then .error f else .ok (s.writeResult d x npc))
    (next : exec i s = .next t) (dest : MayWrite i d) (family : FlagFamily (opcode i)) :
    Leaves i s (s.pc + BitVec.ofNat 32 i.layout.len) t :=
  leaves_of_body h next fun npc u ok => by
    cases impossible with
    | true => simp at ok
    | false => exact Except.ok.inj ok ▸ .result dest family

/-- What a load leaves. -/
theorem leaves_of_load {d b : Reg} {off : BitVec 8} {w : Width} {extend : Word → Word}
    (h : exec i s = execute c i.layout s fun npc => s.load d b off w extend npc)
    (next : exec i s = .next t) (dest : MayWrite i d) : Leaves i s (s.pc + BitVec.ofNat 32 i.layout.len) t :=
  leaves_of_body h next fun npc u ok => by
    obtain ⟨-, rfl⟩ := State.load_ok.mp ok
    exact .register dest

/-- What a store leaves. -/
theorem leaves_of_store {r b : Reg} {off : BitVec 8} {w : Width}
    (h : exec i s = execute c i.layout s fun npc => s.store r b off w npc)
    (next : exec i s = .next t) (op : opcode i ∈ [0x51, 0x53, 0x55]) :
    Leaves i s (s.pc + BitVec.ofNat 32 i.layout.len) t :=
  leaves_of_body h next fun npc u ok => by
    obtain ⟨⟨-, inside⟩, rfl⟩ := State.store_ok.mp ok
    exact .stored op (by rwa [Width.split_length])

end

/-- Whatever state an instruction leaves is one of the forms of `Leaves`. -/
theorem exec_leaves {i : Instr} {s t : State} (next : exec i s = .next t) :
    Leaves i s (s.pc + BitVec.ofNat 32 i.layout.len) t := by
  cases i with
  | halt c => exact leaves_of_pure rfl next fun _ => .halted rfl
  | syscall c | trap c v | int c v | iret c | reti c =>
    exact leaves_of_pure rfl next fun _ => .delivered (by simp [opcode, encode, headerBytes])
  | mov c d e | movi c d v | limm c d v | movhi c d v | lea c d b off =>
    exact leaves_of_pure rfl next fun _ => .register rfl
  | swap c d e => exact leaves_of_pure rfl next fun _ => .registers (.inl rfl) (.inr rfl)
  | add c d x y | sub c d x y | mul c d x y | inc c d | dec c d | neg c d | abs c d | addi c d x v | subi c d x v
  | and c d x y | or c d x y | xor c d x y | not c d | andi c d x v | ori c d x v | xori c d x v
  | shl c d x y | shr c d x y | sar c d x y | rol c d x y | ror c d x y | shli c d x v | shri c d x v | sari c d x v =>
    exact leaves_of_pure rfl next fun _ => .result rfl (by simp [FlagFamily, opcode, encode, headerBytes])
  | div c d x y | mod c d x y | divu c d x y | modu c d x y =>
    exact leaves_of_division rfl next rfl (by simp [FlagFamily, opcode, encode, headerBytes])
  | cmp c x y | cmpi c x v | tst c x y | tsti c x v | cmpf c x y =>
    exact leaves_of_pure rfl next fun _ => .flags (by simp [FlagFamily, opcode, encode, headerBytes])
  | load c d b off | loadb c d b off | loadh c d b off | loadsb c d b off | loadsh c d b off =>
    exact leaves_of_load rfl next rfl
  | store c r b off | storeb c r b off | storeh c r b off =>
    exact leaves_of_store rfl next (by simp [opcode, encode, headerBytes])
  | push c r =>
    refine leaves_of_map (exec_push c r s) next fun _ u push =>
      .pushed (l := [r]) (by simp [opcode, encode, headerBytes]) ?_
    exact State.pushAll_cons_ok.mpr ⟨u, push, rfl⟩
  | pop c r =>
    refine leaves_of_map (exec_pop c r s) next fun npc p pop => ?_
    exact .popped (l := [r]) (t := p.2.setReg r p.1) (by simp [opcode, encode, headerBytes])
      (fun q hq => List.mem_singleton.mp hq) (State.popAll_cons_ok.mpr ⟨p.1, p.2, pop, rfl⟩)
  | pushm c v =>
    exact leaves_of_map (exec_pushm c v s) next fun _ _ run => .pushed (by simp [opcode, encode, headerBytes]) run
  | popm c v =>
    exact leaves_of_map (exec_popm c v s) next fun _ _ run =>
      .popped (by simp [opcode, encode, headerBytes]) (fun r => (mem_maskUp v r).mp) run
  | enter c v => exact leaves_of_map (exec_enter c v s) next fun _ _ push => .entered rfl rfl push
  | leave c => exact leaves_of_map (exec_leave c s) next fun _ _ _ => .left rfl rfl
  | alloca c r => exact leaves_of_pure rfl next fun _ => .allocated rfl
  | jmp c v =>
    exact leaves_of_pure (rfl : execJmp c v s = _) next fun _ => .jumped (by simp [opcode, encode, headerBytes])
  | jmpr c r =>
    exact leaves_of_pure (rfl : execJmpr c r s = _) next fun _ => .jumped (by simp [opcode, encode, headerBytes])
  | bra c v =>
    exact leaves_of_pure (rfl : execBra c v s = _) next fun _ => .jumped (by simp [opcode, encode, headerBytes])
  | call c v =>
    exact leaves_of_map (exec_call c v s) next fun _ _ push => .called (by simp [opcode, encode, headerBytes]) push
  | calli c r =>
    exact leaves_of_map (exec_calli c r s) next fun _ _ push => .called (by simp [opcode, encode, headerBytes]) push
  | bsr c v =>
    exact leaves_of_map (exec_bsr c v s) next fun _ _ push => .called (by simp [opcode, encode, headerBytes]) push
  | ret c =>
    refine leaves_of_map (exec_ret c s) next fun _ p pop => ?_
    obtain ⟨-, -, after⟩ := (s.pop_ok p.1 p.2).mp pop
    rw [after]
    exact .returned rfl

/-! ## What only some instructions change -/

/-- Settles O54: only the forms `result` and `flags` write the flags. -/
theorem onlyFourFamiliesWriteFlags : Obligations.OnlyFourFamiliesWriteFlags := by
  intro i s t next other
  cases exec_leaves next with
  | result _ family | flags family => exact absurd family other
  | pushed _ run =>
    obtain ⟨-, -, flags, -⟩ := State.pushAll_keeps run
    exact flags
  | popped _ _ run =>
    obtain ⟨-, flags, -⟩ := State.popAll_keeps run
    exact flags
  | entered _ _ push | called _ push =>
    obtain ⟨-, -, flags, -⟩ := State.push_keeps push
    exact flags
  | _ => rfl

/-- Settles O55: the forms that move SP are those of the stack family, the calls and RET. -/
theorem onlyStackInstructionsWriteSp : Obligations.OnlyStackInstructionsWriteSp := by
  intro i s t next notStack notCall
  simp only [List.mem_cons, List.not_mem_nil, or_false, not_or] at notCall
  cases exec_leaves next with
  | pushed op | popped op | called op =>
    simp only [List.mem_cons, List.not_mem_nil, or_false] at op
    omega
  | entered op | left op | allocated op | returned op => omega
  | _ => rfl

/-- Settles O56: the forms that write memory are those of the stores, the pushes and the calls. -/
theorem onlyStoresAndPushesWriteMemory : Obligations.OnlyStoresAndPushesWriteMemory := by
  intro i s t next other
  simp only [List.mem_cons, List.not_mem_nil, or_false, not_or] at other
  cases exec_leaves next with
  | stored op | pushed op | called op =>
    simp only [List.mem_cons, List.not_mem_nil, or_false] at op
    omega
  | entered op => omega
  | popped _ _ run =>
    obtain ⟨-, -, -, mem, -⟩ := State.popAll_keeps run
    exact mem
  | _ => rfl

/-- The five lengths of an instruction (30_encoding.md R84). -/
theorem layout_len_mem (l : Layout) : l.len ∈ [2, 4, 5, 6, 8] := by
  cases l <;> decide

/-- Settles O57: every form but those of a transfer leaves the address after the instruction in `pc`. -/
theorem otherInstructionsAdvancePc : Obligations.OtherInstructionsAdvancePc := by
  intro i s t next other
  simp only [List.mem_cons, List.not_mem_nil, or_false, not_or] at other
  have pc : t.pc = s.pc + BitVec.ofNat 32 i.layout.len := by
    cases exec_leaves next with
    | jumped op | called op =>
      simp only [List.mem_cons, List.not_mem_nil, or_false] at op
      omega
    | returned op => omega
    | _ => rfl
  rw [pc, encode_length, BitVec.toNat_add, BitVec.toNat_ofNat, Nat.add_mod_mod]
  exact ⟨rfl, layout_len_mem i.layout⟩

/-- Settles O58: the registers that the forms write are destinations. -/
theorem onlyDestinationsAreWritten : Obligations.OnlyDestinationsAreWritten := by
  intro i s t r next other
  have ne {d : Reg} (dest : MayWrite i d) : r ≠ d := fun same => other (same ▸ dest)
  cases exec_leaves next with
  | register dest | result dest | left _ dest => exact State.reg_setReg_other _ _ (ne dest)
  | registers dest dest' =>
    exact (State.reg_setReg_other _ _ (ne dest')).trans (State.reg_setReg_other _ _ (ne dest))
  | pushed _ run =>
    obtain ⟨regs, -⟩ := State.pushAll_keeps run
    exact State.reg_congr regs r
  | popped _ dests run =>
    obtain ⟨-, -, -, -, -, -, -, others⟩ := State.popAll_keeps run
    exact others r fun listed => other (dests r listed)
  | entered _ dest push =>
    obtain ⟨regs, -⟩ := State.push_keeps push
    exact (State.reg_setReg_other _ _ (ne dest)).trans (State.reg_congr regs r)
  | called _ push =>
    obtain ⟨regs, -⟩ := State.push_keeps push
    exact State.reg_congr regs r
  | _ => rfl

/-- Settles O59: `halted` sets the run-state bit, `delivered` hands over, and no form touches the other two fields. -/
theorem onlyHaltHaltsAndOnlyEventsHandOver : Obligations.OnlyHaltHaltsAndOnlyEventsHandOver := by
  intro i s t next
  cases exec_leaves next with
  | pushed _ run =>
    obtain ⟨-, -, -, halted, size, control, count, -⟩ := State.pushAll_keeps run
    exact ⟨fun _ => halted, fun _ => control, size, count⟩
  | popped _ _ run =>
    obtain ⟨-, -, halted, -, size, control, count, -⟩ := State.popAll_keeps run
    exact ⟨fun _ => halted, fun _ => control, size, count⟩
  | entered _ _ push | called _ push =>
    obtain ⟨-, -, -, halted, size, control, count, -⟩ := State.push_keeps push
    exact ⟨fun _ => halted, fun _ => control, size, count⟩
  | halted op => exact ⟨fun other => absurd op other, fun _ => rfl, rfl, rfl⟩
  | delivered op => exact ⟨fun _ => rfl, fun other => absurd op other, rfl, rfl⟩
  | _ => exact ⟨fun _ => rfl, fun _ => rfl, rfl, rfl⟩

/-! ## The invariant -/

/-- A step that keeps the memory size, memory's form and bounds, and a legal run state keeps the invariant. -/
theorem State.Inv.of_keeps {s t : State} (inv : s.Inv) (size : t.memSize = s.memSize)
    (form : s.mem.wf = true → t.mem.wf = true) (bounds : s.mem.below s.memSize = true → t.mem.below s.memSize = true)
    (runState : t.control = .machine ∨ t.halted = false) : t.Inv where
  memSizeLegal := by
    rw [State.memSizeLegal, size]
    exact inv.memSizeLegal
  memCanonical := form inv.memCanonical
  memInside := by
    rw [size]
    exact bounds inv.memInside
  runState := runState

/-- What an instruction does to memory keeps its form and its bounds (20_memory.md R50, R63). -/
theorem exec_keeps_mem {i : Instr} {s t : State} (next : exec i s = .next t) :
    (s.mem.wf = true → t.mem.wf = true) ∧ (s.mem.below s.memSize = true → t.mem.below s.memSize = true) := by
  cases exec_leaves next with
  | stored _ inside =>
    exact ⟨Memory.wf_writeBytes _ _ _, fun below => Memory.below_writeBytes _ _ _ below inside⟩
  | pushed _ run =>
    obtain ⟨-, -, -, -, -, -, -, mem⟩ := State.pushAll_keeps run
    exact mem
  | popped _ _ run =>
    obtain ⟨-, -, -, mem, -⟩ := State.popAll_keeps run
    rw [State.setPc_mem, mem]
    exact ⟨id, id⟩
  | entered _ _ push | called _ push =>
    obtain ⟨-, -, -, -, -, -, -, mem⟩ := State.push_keeps push
    exact mem
  | _ => exact ⟨id, id⟩

/-- An instruction that a running machine executes leaves the machine to act or not halted: HALT hands nothing over and
no event instruction halts (60_exceptions.md R284). -/
theorem exec_keeps_runState {i : Instr} {s t : State} (running : s.Running) (next : exec i s = .next t) :
    t.control = .machine ∨ t.halted = false := by
  obtain ⟨machine, notHalted⟩ := running
  obtain ⟨halted, control, -, -⟩ := onlyHaltHaltsAndOnlyEventsHandOver i s t next
  by_cases halt : opcode i = 0x00
  · exact .inl ((control (by rw [halt]; decide)).trans machine)
  · exact .inr ((halted halt).trans notHalted)

/-- An answer to TRAP, INT, IRET or RETI keeps the invariant (60_exceptions.md R287 to R289). -/
theorem answerReply_keeps_inv {s : State} (inv : s.Inv) (waiting : s.halted = false) (reply : EnvReply) :
    (s.answerReply reply).Inv ∧ (s.answerReply reply).memSize = s.memSize := by
  cases reply with
  | resume m =>
    exact ⟨inv.of_keeps rfl (wf_storeAllowed _ _ _ _) (below_storeAllowed _ _ _ _) (.inl rfl), rfl⟩
  | endRun => exact ⟨inv.of_keeps rfl id id (.inr waiting), rfl⟩

/-- An answer to a system call that gives a next state keeps the invariant (60_exceptions.md R284 to R286). -/
theorem answerSysCall_keeps_inv {s t : State} (inv : s.Inv) (waiting : s.halted = false)
    {number arg1 arg2 arg3 : Word} (next : s.answerSysCall number arg1 arg2 arg3 = .next t) :
    t.Inv ∧ t.memSize = s.memSize := by
  obtain ⟨-, rfl⟩ | ⟨-, rfl⟩ := State.answerSysCall_next next
  · exact ⟨inv.of_keeps rfl id id (.inr waiting), rfl⟩
  · exact ⟨inv.of_keeps rfl (wf_storeAllowed _ _ _ _) (below_storeAllowed _ _ _ _) (.inl rfl), rfl⟩

/-- Whatever the environment answers keeps the invariant (60_exceptions.md R281). -/
theorem answer_keeps_inv {s t : State} (inv : s.Inv) (waiting : s.halted = false) {e : Event}
    (next : s.answer e = .next t) : t.Inv ∧ t.memSize = s.memSize := by
  cases e with
  | sysCall number arg1 arg2 arg3 arg4 arg5 => exact answerSysCall_keeps_inv inv waiting next
  | trap n | softInt n | intReturn =>
    obtain rfl := Host.Outcome.next.inj next
    exact answerReply_keeps_inv inv waiting _

/-- All a step can do when it gives a next state: nothing more in a finished run, the environment's answer, or one
instruction (70_reset_and_hazards.md R316). -/
theorem step_next {s t : State} (next : step s = .next t) :
    t = s ∨ (∃ e, s.control = .environment e ∧ s.answer e = .next t) ∨ (s.Running ∧ ∃ i, exec i s = .next t) := by
  unfold step at next
  split at next
  case h_1 => exact .inl (Host.Outcome.next.inj next).symm
  case h_2 e waits => exact .inr (.inl ⟨e, waits, next⟩)
  case h_3 machine =>
    split at next
    · exact .inl (Host.Outcome.next.inj next).symm
    · rename_i notHalted
      split at next
      · contradiction
      · exact .inr (.inr ⟨⟨machine, Bool.eq_false_of_not_eq_true notHalted⟩, _, next⟩)

/-- Settles O51: each of the three things a step can do keeps the invariant. -/
theorem stepKeepsInvariant : Obligations.StepKeepsInvariant := by
  intro s t inv next
  obtain rfl | ⟨e, waits, answer⟩ | ⟨running, i, run⟩ := step_next next
  · exact ⟨inv, rfl⟩
  · have waiting : s.halted = false := inv.runState.resolve_left (by rw [waits]; simp)
    exact answer_keeps_inv inv waiting answer
  · obtain ⟨-, -, size, -⟩ := onlyHaltHaltsAndOnlyEventsHandOver i s t run
    obtain ⟨form, bounds⟩ := exec_keeps_mem run
    exact ⟨inv.of_keeps size form bounds (exec_keeps_runState running run), size⟩

/-- Settles O52: a launched machine acts next, and the image is all its memory. -/
theorem launchMeetsInvariant : Obligations.LaunchMeetsInvariant := by
  have launch (n : Nat) (p : Word) (rs : Vector Word 16) (f : Flags) (m : Memory) (least : 4 ≤ n) (most : n ≤ 2 ^ 32)
      (multiple : n % 4 = 0) (form : m.wf = true) (bounds : m.below n = true) : (State.launch n p rs f m).Inv :=
    ⟨⟨least, most, multiple⟩, form, bounds, .inl rfl⟩
  exact ⟨launch, launch _ _ _ _ [] (by decide) (by decide) (by decide) rfl rfl⟩

/-! ## The canonical form -/

/-- An address below every entry reads as an unlisted one. -/
theorem Memory.read_of_below {m : Memory} {a : Nat} (h : ∀ c ∈ m, a < c.1) : m.read a = Config.unlistedByte := by
  induction m with
  | nil => rfl
  | cons c rest ih =>
    obtain ⟨x, y⟩ := c
    have above : a < x := h (x, y) (by simp)
    rw [Memory.read, if_neg (by omega)]
    exact ih fun c hc => h c (by simp [hc])

/-- The first entry of a canonical memory is its first address that does not read as an unlisted one. -/
theorem Memory.head_le_of_read_ne {x a : Nat} {y : Byte} {rest : Memory} (canonical : Memory.wf ((x, y) :: rest) = true)
    (listed : Memory.read ((x, y) :: rest) a ≠ Config.unlistedByte) : x ≤ a := by
  obtain ⟨-, rising, -⟩ := (Memory.wf_cons x y rest).mp canonical
  by_contra below
  refine listed (Memory.read_of_below fun c hc => ?_)
  obtain rfl | hc := List.mem_cons.mp hc
  · omega
  · have := rising c hc
    omega

theorem Memory.read_head (x : Nat) (y : Byte) (rest : Memory) : Memory.read ((x, y) :: rest) x = y := by
  rw [Memory.read, if_pos rfl]

/-- A canonical memory with an entry reads as no empty one does. -/
theorem Memory.read_ne_nil {x : Nat} {y : Byte} {rest : Memory} (canonical : Memory.wf ((x, y) :: rest) = true) :
    Memory.read ((x, y) :: rest) x ≠ Memory.read [] x := by
  obtain ⟨listed, -, -⟩ := (Memory.wf_cons x y rest).mp canonical
  rwa [Memory.read_head]

/-- Settles O60, by induction on one memory: memories that read alike have the same first entry, and then tails that
read alike. -/
theorem canonicalMemoriesThatReadAlikeAreEqual : Obligations.CanonicalMemoriesThatReadAlikeAreEqual := by
  intro m
  induction m with
  | nil =>
    intro m' _ canonical' alike
    cases m' with
    | nil => rfl
    | cons c' rest' => exact absurd (alike c'.1).symm (Memory.read_ne_nil canonical')
  | cons c rest ih =>
    intro m' canonical canonical' alike
    cases m' with
    | nil => exact absurd (alike c.1) (Memory.read_ne_nil canonical)
    | cons c' rest' =>
      obtain ⟨x, y⟩ := c
      obtain ⟨x', y'⟩ := c'
      obtain ⟨listed, rising, tail⟩ := (Memory.wf_cons x y rest).mp canonical
      obtain ⟨listed', rising', tail'⟩ := (Memory.wf_cons x' y' rest').mp canonical'
      have first : x ≤ x' := Memory.head_le_of_read_ne canonical (by rwa [alike, Memory.read_head])
      have first' : x' ≤ x := Memory.head_le_of_read_ne canonical' (by rwa [← alike, Memory.read_head])
      obtain rfl : x = x' := Nat.le_antisymm first first'
      obtain rfl : y = y' := by simpa only [Memory.read_head] using alike x
      have tails (a : Nat) : Memory.read rest a = Memory.read rest' a := by
        by_cases here : x = a
        · subst here
          rw [Memory.read_of_below rising, Memory.read_of_below rising']
        · simpa only [Memory.read, if_neg here] using alike a
      rw [ih rest' tail tail' tails]

end Sys2Proof.Machine

/-! PROOFS. The environment's answers: system calls, and TRAP, INT, IRET and RETI (60_exceptions.md R281 to R289). -/

namespace Sys2Proof.Machine

/-! ## A delivered system call and its answer -/

/-- The step after a delivered event is the environment's answer to it (60_exceptions.md R281). -/
theorem step_of_environment {s : State} {e : Event} (waits : s.control = .environment e) : step s = s.answer e := by
  simp only [step, waits]

/-- A completed SYSCALL has delivered the call that R0 to R5 describe, and the next step answers it
(41_system.md R151, 60_exceptions.md R281). -/
theorem syscall_delivers {c : Cond} {s e : State} (holds : Statements.Holds c s)
    (delivered : exec (.syscall c) s = .next e) :
    e = s.deliver (.sysCall (s.reg 0) (s.reg 1) (s.reg 2) (s.reg 3) (s.reg 4) (s.reg 5)) (s.pc + 2#32) ∧
      step e = e.answerSysCall (s.reg 0) (s.reg 1) (s.reg 2) (s.reg 3) := by
  obtain rfl := answer_of_exec holds rfl delivered
  exact ⟨rfl, step_of_environment
    (e := .sysCall (s.reg 0) (s.reg 1) (s.reg 2) (s.reg 3) (s.reg 4) (s.reg 5)) rfl⟩

/-- SYS_EXIT is call 20 and no other (60_exceptions.md R283). -/
theorem sysName_eq_exit_iff (number : Word) : sysName number = some .exit ↔ number = 20#32 := by
  rw [sysName, ← BitVec.toNat_inj, BitVec.toNat_ofNat]
  split <;> simp_all

/-- SYS_EXIT ends the run (60_exceptions.md R286). -/
theorem answerSysCall_exit (s : State) (arg1 arg2 arg3 : Word) :
    s.answerSysCall 20#32 arg1 arg2 arg3 = .next (s.endRun (some arg1)) := by
  simp only [State.answerSysCall, (sysName_eq_exit_iff 20#32).mpr rfl, if_true]

/-- A call other than SYS_EXIT that is answered resumes the machine (60_exceptions.md R282). -/
theorem answerSysCall_resumes {s t : State} {number arg1 arg2 arg3 : Word} (notExit : number ≠ 20#32)
    (next : s.answerSysCall number arg1 arg2 arg3 = .next t) :
    t = s.sysResume (sysMayWrite (sysName number) arg2 arg3 (Config.sysReply s)) (Config.sysReply s) := by
  obtain ⟨exit, -⟩ | ⟨-, resumed⟩ := State.answerSysCall_next next
  · exact absurd ((sysName_eq_exit_iff number).mp exit) notExit
  · exact resumed

section
variable {s : State} {number arg1 arg2 arg3 : Word} {name : SysName}

/-- A standard call whose buffer is inside memory is answered (60_exceptions.md R282, R285). -/
theorem answerSysCall_of_inside (named : sysName number = some name) (standard : sysStandard (some name) = true)
    (inside : rangeInside s.memSize (sysBuffer (some name) arg1 arg2 arg3) = true) :
    ∃ t, s.answerSysCall number arg1 arg2 arg3 = .next t := by
  simp only [State.answerSysCall, named, standard, inside, Bool.not_true, Bool.false_and, if_true]
  split
  · exact ⟨_, rfl⟩
  · exact ⟨_, rfl⟩

/-- A standard call whose buffer is not inside memory is refused (60_exceptions.md R285). -/
theorem answerSysCall_of_outside (named : sysName number = some name) (notExit : name ≠ .exit)
    (standard : sysStandard (some name) = true)
    (outside : rangeInside s.memSize (sysBuffer (some name) arg1 arg2 arg3) = false) :
    s.answerSysCall number arg1 arg2 arg3 = .refused (.bufferOutsideMemory number) := by
  simp [State.answerSysCall, named, notExit, standard, outside]

end

/-- A range that ends inside memory lies inside it. -/
theorem rangeInside_of_le {memSize a n : Nat} (h : a + n ≤ memSize) : rangeInside memSize (a, n) = true := by
  simp [rangeInside, h]

/-- A range with a byte that ends beyond memory does not lie inside it. -/
theorem rangeInside_of_lt {memSize a : Nat} {n : Word} (nonempty : n ≠ 0#32) (h : memSize < a + n.toNat) :
    rangeInside memSize (a, n.toNat) = false := by
  have positive : n.toNat ≠ 0 := fun zero => nonempty (BitVec.eq_of_toNat_eq zero)
  simp [rangeInside, positive, h]

/-! ## System calls -/

/-- Settles O46: the answer resumes the machine, which touches R0, R1 and memory alone. -/
theorem systemCallPreserves : Obligations.SystemCallPreserves := by
  intro c s e t holds notHalted notExit delivered next
  obtain ⟨after, answer⟩ := syscall_delivers holds delivered
  obtain rfl := answerSysCall_resumes notExit (answer ▸ next)
  refine ⟨?pc, fun r hr => ?registers, ?sp, ?flags, ?halted, rfl, ?size⟩
  case registers =>
    have notR1 : r ≠ 1 := by rintro rfl; contradiction
    have notR0 : r ≠ 0 := by rintro rfl; contradiction
    rw [State.sysResume_reg, if_neg notR1, if_neg notR0, after]
    rfl
  case halted =>
    rw [after]
    exact notHalted
  all_goals
    rw [after]
    rfl

/-- Settles O47: the environment's stores are cut down to what the call may write. -/
theorem systemCallWritesOnlyItsBuffer : Obligations.SystemCallWritesOnlyItsBuffer := by
  intro c s e t holds delivered next
  obtain ⟨after, answer⟩ := syscall_delivers holds delivered
  have mem : e.mem = s.mem := by rw [after]; rfl
  rw [answer] at next
  refine ⟨fun number q outside => ?read, ?writeNothing⟩
  case read =>
    obtain rfl := answerSysCall_resumes (by rw [number]; decide) next
    rw [number, ← mem]
    refine read_storeAllowed_other _ _ _ _ q ?_
    have noByte : inRange ((s.reg 2).toNat, (s.reg 3).toNat) q = false := by
      simp only [inRange, Bool.and_eq_false_iff, decide_eq_false_iff_not]
      omega
    exact noByte
  case writeNothing =>
    have resumed {number : Word} (is : s.reg 0 = number) (notExit : number ≠ 20#32)
        (nothing : ∀ reply, sysMayWrite (sysName number) (s.reg 2) (s.reg 3) reply = fun _ => false) :
        t.mem = s.mem := by
      obtain rfl := answerSysCall_resumes (is ▸ notExit) next
      obtain ⟨-, -, -, -, -, -, stores⟩ := e.sysResume_keeps
        (sysMayWrite (sysName (s.reg 0)) (s.reg 2) (s.reg 3) (Config.sysReply e)) (Config.sysReply e)
      rw [stores, is, nothing, storeAllowed_none, mem]
    rintro (write | opened | closed | exit | print)
    · exact resumed write (by decide) fun _ => rfl
    · exact resumed opened (by decide) fun _ => rfl
    · exact resumed closed (by decide) fun _ => rfl
    · rw [exit, answerSysCall_exit] at next
      obtain rfl := Host.Outcome.next.inj next
      exact mem
    · exact resumed print (by decide) fun _ => rfl

/-- Settles O48: the buffer of the call, inside memory or not, decides; SYS_OPEN and SYS_CLOSE have none. -/
theorem standardCallsAreAnswered : Obligations.StandardCallsAreAnswered := by
  intro c s e holds delivered
  obtain ⟨after, answer⟩ := syscall_delivers holds delivered
  have size : s.memSize = e.memSize := by rw [after]; rfl
  rw [answer, size]
  refine ⟨?answered, ?inside, fun is fits => ?print, ?outside, fun is nonempty beyond => ?printOutside⟩
  case answered =>
    rintro (is | is) <;> rw [is]
    · exact answerSysCall_of_inside (name := .open_) rfl rfl rfl
    · exact answerSysCall_of_inside (name := .close) rfl rfl rfl
  case inside =>
    rintro (is | is) fits <;> rw [is]
    · exact answerSysCall_of_inside (name := .read) rfl rfl (rangeInside_of_le fits)
    · exact answerSysCall_of_inside (name := .write) rfl rfl (rangeInside_of_le fits)
  case print =>
    rw [is]
    exact answerSysCall_of_inside (name := .print) rfl rfl (rangeInside_of_le fits)
  case outside =>
    rintro (is | is) nonempty beyond <;> rw [is]
    · exact answerSysCall_of_outside (name := .read) rfl (by decide) rfl (rangeInside_of_lt nonempty beyond)
    · exact answerSysCall_of_outside (name := .write) rfl (by decide) rfl (rangeInside_of_lt nonempty beyond)
  case printOutside =>
    rw [is]
    exact answerSysCall_of_outside (name := .print) rfl (by decide) rfl (rangeInside_of_lt nonempty beyond)

/-- Settles O49: the answer to call 20 ends the run, and a run that has ended changes no more. -/
theorem sysExitEndsTheRun : Obligations.SysExitEndsTheRun := by
  intro c s e holds number delivered
  obtain ⟨after, answer⟩ := syscall_delivers holds delivered
  rw [number, answerSysCall_exit] at answer
  refine ⟨_, answer, ?_, finishedRunChangesNothing _ (.inr ⟨_, rfl⟩)⟩
  rw [after]
  rfl

/-! ## TRAP, INT, IRET and RETI -/

/-- An answer to TRAP, INT, IRET or RETI resumes the machine or ends the run (60_exceptions.md R287 to R289). -/
theorem answerReply_control (s : State) (reply : EnvReply) :
    ((s.answerReply reply).control = .machine ∨ (s.answerReply reply).control = .ended none) ∧
      (s.answerReply reply).memSize = s.memSize := by
  cases reply with
  | resume m => exact ⟨.inl rfl, rfl⟩
  | endRun => exact ⟨.inr rfl, rfl⟩

/-- Settles O50: each of the three events is answered by an unconstrained reply. -/
theorem otherEventsAreAnswered : Obligations.OtherEventsAreAnswered := by
  rintro s e waits (⟨n, rfl⟩ | ⟨n, rfl⟩ | rfl)
  all_goals exact ⟨_, step_of_environment waits, answerReply_control s _⟩

end Sys2Proof.Machine
